-- ==== Sys2Proof/Word.lean ====
section
/-! DEFINITION. The data sizes of the spec (00_scope.md R9). -/

namespace Sys2Proof

/-- A byte is 8 bits (R9). -/
abbrev Byte := BitVec 8

/-- A word is 16 bits (R9). -/
abbrev Word := BitVec 16

/-- A doubleword is 32 bits (R9). -/
abbrev Dword := BitVec 32

/-- A quadword is 64 bits (R9). -/
abbrev Qword := BitVec 64

end Sys2Proof
end

