-- ==== Sys2Proof/Machine/Lanes.lean ====
section
/-! DEFINITION. The elements of a quadword (40_mmx_common.md R125) and the saturating conversions (00_scope.md R12). -/

namespace Sys2Proof.Machine

/-- `v.b[k]` (R125). -/
def byteLane (v : Qword) (k : Nat) : Byte := v.extractLsb' (8 * k) 8

/-- `v.w[k]` (R125). -/
def wordLane (v : Qword) (k : Nat) : Word := v.extractLsb' (16 * k) 16

/-- `v.d[k]` (R125). -/
def dwordLane (v : Qword) (k : Nat) : Dword := v.extractLsb' (32 * k) 32

/-- The quadword whose byte elements are `f 0` to `f 7`. -/
def ofBytes (f : Nat → Byte) : Qword := f 7 ++ f 6 ++ f 5 ++ f 4 ++ f 3 ++ f 2 ++ f 1 ++ f 0

/-- The quadword whose word elements are `f 0` to `f 3`. -/
def ofWords (f : Nat → Word) : Qword := f 3 ++ f 2 ++ f 1 ++ f 0

/-- The quadword whose doubleword elements are `f 0` and `f 1`. -/
def ofDwords (f : Nat → Dword) : Qword := f 1 ++ f 0

/-- `SatS8` (R12). -/
def satS8 (i : Int) : Byte := if i > 127 then 0x7F else if i < -128 then 0x80 else BitVec.ofInt 8 i

/-- `SatS16` (R12). -/
def satS16 (i : Int) : Word := if i > 32767 then 0x7FFF else if i < -32768 then 0x8000 else BitVec.ofInt 16 i

/-- `SatU8` (R12). -/
def satU8 (i : Int) : Byte := if i > 255 then 0xFF else if i < 0 then 0x00 else BitVec.ofInt 8 i

/-- `SatU16` (R12). -/
def satU16 (i : Int) : Word := if i > 65535 then 0xFFFF else if i < 0 then 0x0000 else BitVec.ofInt 16 i

/-- Applies an operation to each pair of byte elements; no carry passes between elements (40_mmx_common.md R127). -/
def mapBytes (f : Byte → Byte → Byte) (d s : Qword) : Qword := ofBytes fun k => f (byteLane d k) (byteLane s k)

/-- Applies an operation to each pair of word elements (R127). -/
def mapWords (f : Word → Word → Word) (d s : Qword) : Qword := ofWords fun k => f (wordLane d k) (wordLane s k)

/-- Applies an operation to each pair of doubleword elements (R127). -/
def mapDwords (f : Dword → Dword → Dword) (d s : Qword) : Qword := ofDwords fun k => f (dwordLane d k) (dwordLane s k)

end Sys2Proof.Machine
end

