-- ==== Sys2Proof/Syntax.lean ====
section
/-! DEFINITION. The syntax of the 82 opcode rows: registers, operands, one constructor of `Instr` per row of
spec/opcode_table.json, and the reasons the decoder gives when it refuses bytes. -/

namespace Sys2Proof

/-- The eight general registers, in the order of their numbers 0 to 7 (10_state.md R20, R21). -/
inductive Reg where
  | eax | ecx | edx | ebx | esp | ebp | esi | edi
deriving DecidableEq, Repr, Inhabited

/-- The eight MMX registers (10_state.md R33). -/
inductive MReg where
  | mm0 | mm1 | mm2 | mm3 | mm4 | mm5 | mm6 | mm7
deriving DecidableEq, Repr, Inhabited

/-- The six segment registers (10_state.md R34). -/
inductive SReg where
  | cs | ss | ds | es | fs | gs
deriving DecidableEq, Repr, Inhabited

/-- An operand size of 16 or 32 bits (10_state.md R43). -/
inductive OpSize where
  | w16 | w32
deriving DecidableEq, Repr, Inhabited

/-- The register part of a 16-bit addressing form (30_encoding.md R91, rm = 0 to 7). -/
inductive Base16 where
  | bxsi | bxdi | bpsi | bpdi | si | di | bp | bx
deriving DecidableEq, Repr, Inhabited

/-- The displacement of a 16-bit addressing form: mod = 0, 1, 2 (R91). -/
inductive Disp16 where
  | none
  | d8 (d : Byte)
  | d16 (d : Word)
deriving DecidableEq, Repr, Inhabited

/-- The displacement of a 32-bit addressing form: mod = 0, 1, 2 (R90). -/
inductive Disp32 where
  | none
  | d8 (d : Byte)
  | d32 (d : Dword)
deriving DecidableEq, Repr, Inhabited

/-- The addressing form of a memory operand, as the ModR/M and SIB bytes give it (R90, R91, R93).
The first two are the forms of `AddressSize = 16`, the other four those of `AddressSize = 32`. -/
inductive Addr where
  | a16 (base : Base16) (disp : Disp16)
  | abs16 (off : Word)
  | a32 (base : Reg) (disp : Disp32)
  | abs32 (off : Dword)
  /-- A SIB byte with a base register. `index = .esp` says that there is no index (R93); the scale bits
  are then without effect, and are kept because the byte holds them. -/
  | sib (base : Reg) (scale : BitVec 2) (index : Reg) (disp : Disp32)
  /-- A SIB byte with base = 5 and mod = 0: no base register, a disp32 (R93). -/
  | sibNoBase (scale : BitVec 2) (index : Reg) (off : Dword)
deriving DecidableEq, Repr, Inhabited

/-- A memory operand: the segment-override prefix if there is one (R84), and the addressing form. -/
structure MemOp where
  seg : Option SReg
  addr : Addr
deriving DecidableEq, Repr, Inhabited

/-- The second operand `mm/m64` or `mm/m32` of an MMX row (40_mmx_common.md R120). -/
inductive MmSrc where
  | reg (r : MReg)
  | mem (m : MemOp)
deriving DecidableEq, Repr, Inhabited

/-- The operand `r/m16` or `r/m32` of PUSH (30_encoding.md R95, format OP_RM). -/
inductive RmSrc where
  | reg (r : Reg)
  | mem (m : MemOp)
deriving DecidableEq, Repr, Inhabited

/-- One constructor per row of spec/opcode_table.json. A row that both operand sizes share (PUSH imm8, PUSH and
POP of a segment register) carries the size; a row of one size names it. -/
inductive Instr where
  /-- PACKSSWB mm, mm/m64, opcode 0F 63 /r, R140. -/
  | packsswb (dst : MReg) (src : MmSrc)
  /-- PACKSSDW mm, mm/m64, opcode 0F 6B /r, R141. -/
  | packssdw (dst : MReg) (src : MmSrc)
  /-- PACKUSWB mm, mm/m64, opcode 0F 67 /r, R142. -/
  | packuswb (dst : MReg) (src : MmSrc)
  /-- PADDB mm, mm/m64, opcode 0F FC /r, R150. -/
  | paddb (dst : MReg) (src : MmSrc)
  /-- PADDW mm, mm/m64, opcode 0F FD /r, R151. -/
  | paddw (dst : MReg) (src : MmSrc)
  /-- PADDD mm, mm/m64, opcode 0F FE /r, R152. -/
  | paddd (dst : MReg) (src : MmSrc)
  /-- PADDSB mm, mm/m64, opcode 0F EC /r, R153. -/
  | paddsb (dst : MReg) (src : MmSrc)
  /-- PADDSW mm, mm/m64, opcode 0F ED /r, R154. -/
  | paddsw (dst : MReg) (src : MmSrc)
  /-- PADDUSB mm, mm/m64, opcode 0F DC /r, R155. -/
  | paddusb (dst : MReg) (src : MmSrc)
  /-- PADDUSW mm, mm/m64, opcode 0F DD /r, R156. -/
  | paddusw (dst : MReg) (src : MmSrc)
  /-- PAND mm, mm/m64, opcode 0F DB /r, R170. -/
  | pand (dst : MReg) (src : MmSrc)
  /-- PANDN mm, mm/m64, opcode 0F DF /r, R171. -/
  | pandn (dst : MReg) (src : MmSrc)
  /-- PCMPEQB mm, mm/m64, opcode 0F 74 /r, R172. -/
  | pcmpeqb (dst : MReg) (src : MmSrc)
  /-- PCMPEQW mm, mm/m64, opcode 0F 75 /r, R173. -/
  | pcmpeqw (dst : MReg) (src : MmSrc)
  /-- PCMPEQD mm, mm/m64, opcode 0F 76 /r, R174. -/
  | pcmpeqd (dst : MReg) (src : MmSrc)
  /-- PCMPGTB mm, mm/m64, opcode 0F 64 /r, R175. -/
  | pcmpgtb (dst : MReg) (src : MmSrc)
  /-- PCMPGTW mm, mm/m64, opcode 0F 65 /r, R176. -/
  | pcmpgtw (dst : MReg) (src : MmSrc)
  /-- PCMPGTD mm, mm/m64, opcode 0F 66 /r, R177. -/
  | pcmpgtd (dst : MReg) (src : MmSrc)
  /-- PMADDWD mm, mm/m64, opcode 0F F5 /r, R190. -/
  | pmaddwd (dst : MReg) (src : MmSrc)
  /-- PMULHW mm, mm/m64, opcode 0F E5 /r, R191. -/
  | pmulhw (dst : MReg) (src : MmSrc)
  /-- PMULLW mm, mm/m64, opcode 0F D5 /r, R192. -/
  | pmullw (dst : MReg) (src : MmSrc)
  /-- POR mm, mm/m64, opcode 0F EB /r, R250. -/
  | por (dst : MReg) (src : MmSrc)
  /-- PSLLW mm, mm/m64, opcode 0F F1 /r, R253. -/
  | psllw (dst : MReg) (src : MmSrc)
  /-- PSLLW mm, imm8, opcode 0F 71 /6 ib, R253. -/
  | psllwImm (dst : MReg) (count : Byte)
  /-- PSLLD mm, mm/m64, opcode 0F F2 /r, R254. -/
  | pslld (dst : MReg) (src : MmSrc)
  /-- PSLLD mm, imm8, opcode 0F 72 /6 ib, R254. -/
  | pslldImm (dst : MReg) (count : Byte)
  /-- PSLLQ mm, mm/m64, opcode 0F F3 /r, R255. -/
  | psllq (dst : MReg) (src : MmSrc)
  /-- PSLLQ mm, imm8, opcode 0F 73 /6 ib, R255. -/
  | psllqImm (dst : MReg) (count : Byte)
  /-- PSRAW mm, mm/m64, opcode 0F E1 /r, R256. -/
  | psraw (dst : MReg) (src : MmSrc)
  /-- PSRAW mm, imm8, opcode 0F 71 /4 ib, R256. -/
  | psrawImm (dst : MReg) (count : Byte)
  /-- PSRAD mm, mm/m64, opcode 0F E2 /r, R257. -/
  | psrad (dst : MReg) (src : MmSrc)
  /-- PSRAD mm, imm8, opcode 0F 72 /4 ib, R257. -/
  | psradImm (dst : MReg) (count : Byte)
  /-- PSRLW mm, mm/m64, opcode 0F D1 /r, R258. -/
  | psrlw (dst : MReg) (src : MmSrc)
  /-- PSRLW mm, imm8, opcode 0F 71 /2 ib, R258. -/
  | psrlwImm (dst : MReg) (count : Byte)
  /-- PSRLD mm, mm/m64, opcode 0F D2 /r, R259. -/
  | psrld (dst : MReg) (src : MmSrc)
  /-- PSRLD mm, imm8, opcode 0F 72 /2 ib, R259. -/
  | psrldImm (dst : MReg) (count : Byte)
  /-- PSRLQ mm, mm/m64, opcode 0F D3 /r, R260. -/
  | psrlq (dst : MReg) (src : MmSrc)
  /-- PSRLQ mm, imm8, opcode 0F 73 /2 ib, R260. -/
  | psrlqImm (dst : MReg) (count : Byte)
  /-- PSUBB mm, mm/m64, opcode 0F F8 /r, R280. -/
  | psubb (dst : MReg) (src : MmSrc)
  /-- PSUBW mm, mm/m64, opcode 0F F9 /r, R281. -/
  | psubw (dst : MReg) (src : MmSrc)
  /-- PSUBD mm, mm/m64, opcode 0F FA /r, R282. -/
  | psubd (dst : MReg) (src : MmSrc)
  /-- PSUBSB mm, mm/m64, opcode 0F E8 /r, R283. -/
  | psubsb (dst : MReg) (src : MmSrc)
  /-- PSUBSW mm, mm/m64, opcode 0F E9 /r, R284. -/
  | psubsw (dst : MReg) (src : MmSrc)
  /-- PSUBUSB mm, mm/m64, opcode 0F D8 /r, R285. -/
  | psubusb (dst : MReg) (src : MmSrc)
  /-- PSUBUSW mm, mm/m64, opcode 0F D9 /r, R286. -/
  | psubusw (dst : MReg) (src : MmSrc)
  /-- PUNPCKHBW mm, mm/m64, opcode 0F 68 /r, R300. -/
  | punpckhbw (dst : MReg) (src : MmSrc)
  /-- PUNPCKHWD mm, mm/m64, opcode 0F 69 /r, R301. -/
  | punpckhwd (dst : MReg) (src : MmSrc)
  /-- PUNPCKHDQ mm, mm/m64, opcode 0F 6A /r, R302. -/
  | punpckhdq (dst : MReg) (src : MmSrc)
  /-- PUNPCKLBW mm, mm/m32, opcode 0F 60 /r, R303. -/
  | punpcklbw (dst : MReg) (src : MmSrc)
  /-- PUNPCKLWD mm, mm/m32, opcode 0F 61 /r, R304. -/
  | punpcklwd (dst : MReg) (src : MmSrc)
  /-- PUNPCKLDQ mm, mm/m32, opcode 0F 62 /r, R305. -/
  | punpckldq (dst : MReg) (src : MmSrc)
  /-- PXOR mm, mm/m64, opcode 0F EF /r, R350. -/
  | pxor (dst : MReg) (src : MmSrc)
  /-- POP m16, opcode 8F /0, R204. -/
  | popM16 (dst : MemOp)
  /-- POP m32, opcode 8F /0, R204. -/
  | popM32 (dst : MemOp)
  /-- POP r16, opcode 58+rw, R202. -/
  | popR16 (r : Reg)
  /-- POP r32, opcode 58+rd, R202. -/
  | popR32 (r : Reg)
  /-- POP DS, opcode 1F, R210. -/
  | popDs (sz : OpSize)
  /-- POP ES, opcode 07, R210. -/
  | popEs (sz : OpSize)
  /-- POP SS, opcode 17, R210. -/
  | popSs (sz : OpSize)
  /-- POP FS, opcode 0F A1, R210. -/
  | popFs (sz : OpSize)
  /-- POP GS, opcode 0F A9, R210. -/
  | popGs (sz : OpSize)
  /-- POPA, opcode 61, R220. -/
  | popa
  /-- POPAD, opcode 61, R220. -/
  | popad
  /-- POPF, opcode 9D, R230. -/
  | popf
  /-- POPFD, opcode 9D, R230. -/
  | popfd
  /-- PUSH r/m16, opcode FF /6, R323. -/
  | pushRm16 (src : RmSrc)
  /-- PUSH r/m32, opcode FF /6, R323. -/
  | pushRm32 (src : RmSrc)
  /-- PUSH r16, opcode 50+rw, R322. -/
  | pushR16 (r : Reg)
  /-- PUSH r32, opcode 50+rd, R322. -/
  | pushR32 (r : Reg)
  /-- PUSH imm8, opcode 6A, R325. -/
  | pushImm8 (sz : OpSize) (imm : Byte)
  /-- PUSH imm16, opcode 68, R325. -/
  | pushImm16 (imm : Word)
  /-- PUSH imm32, opcode 68, R325. -/
  | pushImm32 (imm : Dword)
  /-- PUSH CS, opcode 0E, R326. -/
  | pushCs (sz : OpSize)
  /-- PUSH SS, opcode 16, R326. -/
  | pushSs (sz : OpSize)
  /-- PUSH DS, opcode 1E, R326. -/
  | pushDs (sz : OpSize)
  /-- PUSH ES, opcode 06, R326. -/
  | pushEs (sz : OpSize)
  /-- PUSH FS, opcode 0F A0, R326. -/
  | pushFs (sz : OpSize)
  /-- PUSH GS, opcode 0F A8, R326. -/
  | pushGs (sz : OpSize)
  /-- PUSHA, opcode 60, R330. -/
  | pusha
  /-- PUSHAD, opcode 60, R330. -/
  | pushad
  /-- PUSHF, opcode 9C, R340. -/
  | pushf
  /-- PUSHFD, opcode 9C, R340. -/
  | pushfd
deriving DecidableEq, Repr

/-- Why the decoder refuses bytes. Each is a refusal of 30_encoding.md, not a claim that the processor faults
(R83, R111). -/
inductive DecodeError where
  /-- The bytes end before the instruction does (10_state.md R24). -/
  | truncated
  /-- A LOCK, REPNE or REP prefix (R85). -/
  | lockOrRep (b : Byte)
  /-- A second prefix of one column of R83. -/
  | repeatedPrefix (b : Byte)
  /-- A prefix that R83 does not admit on this instruction. -/
  | prefixNotAdmitted
  /-- An opcode byte with no row (R111). -/
  | noRow (opcode : Byte)
  /-- A second opcode byte after 0F with no row (R96, R111). -/
  | noRow0F (opcode : Byte)
  /-- A `/digit` value, or a mod field, that has no row (R97, R98, R110). -/
  | noGroupRow (opcode : Byte) (modrm : Byte)
deriving DecidableEq, Repr

end Sys2Proof
end

