-- ==== Sys2Proof/Machine/State.lean ====
section
/-! DEFINITION. The machine's state as plain data (10_state.md R42), the reasons a step stops, and the state after
reset. -/

namespace Sys2Proof.Machine

/-- The eight general registers (10_state.md R20). -/
structure Regs where
  eax : Dword
  ecx : Dword
  edx : Dword
  ebx : Dword
  esp : Dword
  ebp : Dword
  esi : Dword
  edi : Dword
deriving DecidableEq, Repr

/-- The eight MMX registers (10_state.md R33). They are plain 64-bit cells: no x87 state is kept (R31). -/
structure MmRegs where
  mm0 : Qword
  mm1 : Qword
  mm2 : Qword
  mm3 : Qword
  mm4 : Qword
  mm5 : Qword
  mm6 : Qword
  mm7 : Qword
deriving DecidableEq, Repr

/-- A segment descriptor as `DescLookup` returns it (20_memory.md R58). -/
structure Descriptor where
  base : Dword
  /-- The segment limit after scaling (10_state.md R35). -/
  limit : Dword
  expdown : Bool
  code : Bool
  writable : Bool
  readable : Bool
  conforming : Bool
  dpl : BitVec 2
  present : Bool
  /-- For SS the B flag, for CS the D flag (R35). -/
  db : Bool
deriving DecidableEq, Repr

/-- The hidden part of a segment register (10_state.md R35): a descriptor and the mark of a null selector. -/
structure Hidden extends Descriptor where
  null : Bool
deriving DecidableEq, Repr

/-- A segment register: its visible selector and its hidden part (10_state.md R34). -/
structure Segment where
  sel : Word
  hid : Hidden
deriving DecidableEq, Repr

/-- The six segment registers (10_state.md R34). -/
structure Segs where
  cs : Segment
  ss : Segment
  ds : Segment
  es : Segment
  fs : Segment
  gs : Segment
deriving DecidableEq, Repr

/-- The four flags of CR0 that the spec gives the machine; its other bits are absent (10_state.md R29). -/
structure Cr0 where
  pe : Bool
  em : Bool
  ts : Bool
  am : Bool
deriving DecidableEq, Repr

/-- Memory contents: (physical address, byte), addresses strictly rising, no byte equal to what an unlisted address
reads as (20_memory.md R50; notes/assumptions/2.md). -/
abbrev Memory := List Host.Cell

/-- A range of physical addresses: `base` to `base + size - 1`. -/
structure Region where
  base : Nat
  size : Nat
deriving DecidableEq, Repr

/-- The whole state (10_state.md R42), with the parts of the launch state that 20_memory.md R50, R66 and R70 name (the
admitted addresses and the program text), and `freeCount`, the model's own. -/
@[ext]
structure State where
  regs : Regs
  /-- EIP, the offset of the next instruction in CS (10_state.md R24). -/
  pc : Dword
  eflags : Dword
  cr0 : Cr0
  mm : MmRegs
  segs : Segs
  /-- The current privilege level (10_state.md R41). -/
  cpl : BitVec 2
  /-- Interrupt inhibit after POP SS (10_state.md R38). -/
  inhibit : Bool
  /-- A pending FPU exception (10_state.md R39). -/
  fpuPending : Bool
  /-- The processor has shut down (10_state.md R40). -/
  shutdown : Bool
  mem : Memory
  /-- The physical addresses that memory admits: the domain of the partial map of R50. -/
  admitted : List Region
  /-- The physical addresses that hold the program text (R70, 70_reset_and_hazards.md R400). -/
  text : List Region
  /-- How many free values have been used: the model's own field (notes/assumptions/5.md). -/
  freeCount : Nat
deriving DecidableEq, Repr

/-- An exception with what it carries (60_exceptions.md R360, R366). `none` as a code is an exception raised
without an error code, in real-address mode. -/
inductive Exn where
  /-- Invalid opcode: an MMX instruction with CR0.EM = 1. No code. -/
  | ud
  /-- Device not available: an MMX instruction with CR0.TS = 1. No code. -/
  | nm
  /-- Segment not present; the code is the selector. -/
  | np (code : Dword)
  /-- Stack fault; the code is 0, a selector, or none. -/
  | ss (code : Option Dword)
  /-- General protection; the code is 0, a selector, or none. -/
  | gp (code : Option Dword)
  /-- Page fault: the linear address of the lowest faulting byte, and the fault code (R367). -/
  | pf (addr : Dword) (code : Dword)
  /-- Pending FPU exception. No code. -/
  | mf
  /-- Alignment check; the code is always 0 (R368). -/
  | ac
deriving DecidableEq, Repr

/-- Why the machine stops with a fault. -/
inductive Fault where
  /-- `Exception(kind, code, state)` of 60_exceptions.md R362, raised by any instruction whose rule raises. `after` is the
  state that the exception leaves: the one before the instruction, with `inhibit` cleared. Safe: the spec ends the
  run here (R5(c) of 00_scope.md, R376), and the model claims nothing of a handler. -/
  | exception (e : Exn) (after : State)
  /-- A step from a state with `shutdown = 1`, raised by `step` alone (60_exceptions.md R383). Safe: the spec
  defines no such step. -/
  | shutDown
deriving DecidableEq, Repr

/-- Why a step has no meaning. -/
inductive Refusal where
  /-- An instruction whose meaning the model does not give yet, raised by `exec` alone. Safe. -/
  | notModelled (mnemonic : String)
  /-- The bytes at `pc` are no in-scope encoding, raised by `step` (30_encoding.md R111). Safe. -/
  | encoding (why : DecodeError)
  /-- The bytes at `pc` are not wholly inside the program text, raised by `step` (10_state.md R24). Safe. -/
  | fetchOutsideText (pc : Dword)
  /-- An access leaves the modelled memory, raised by any access (20_memory.md R50, 60_exceptions.md R362). Safe. -/
  | outsideMemory (addr : Nat)
  /-- A store into the program text, raised by any store (20_memory.md R70). Safe. -/
  | storeIntoText (addr : Nat)
deriving DecidableEq, Repr

/-- The hidden part of SS, DS, ES, FS and GS after reset (10_state.md R45; notes/assumptions/1.md). -/
def Hidden.resetData : Hidden :=
  { base := 0, limit := 0xFFFF, expdown := false, code := false, writable := true, readable := false,
    conforming := false, dpl := 0, present := true, db := false, null := false }

/-- The hidden part of CS after reset (10_state.md R45; notes/assumptions/1.md). -/
def Hidden.resetCode : Hidden :=
  { base := 0xFFFF0000, limit := 0xFFFF, expdown := false, code := true, writable := false, readable := true,
    conforming := false, dpl := 0, present := true, db := false, null := false }

/-- The machine after reset. The sources give no reset value (10_state.md R45, 70_reset_and_hazards.md R400): these
are the family's, PRESUMED, and model choices where the family's table has none (notes/assumptions/1.md to 5.md).
No rule and no other definition of the model rests on them. -/
def State.reset : State :=
  { regs := { eax := 0, ecx := 0, edx := 0, ebx := 0, esp := 0, ebp := 0, esi := 0, edi := 0 }
    pc := 0xFFF0
    eflags := 0x00000002
    cr0 := { pe := false, em := false, ts := false, am := false }
    mm := { mm0 := 0, mm1 := 0, mm2 := 0, mm3 := 0, mm4 := 0, mm5 := 0, mm6 := 0, mm7 := 0 }
    segs :=
      { cs := { sel := 0xF000, hid := Hidden.resetCode }
        ss := { sel := 0, hid := Hidden.resetData }
        ds := { sel := 0, hid := Hidden.resetData }
        es := { sel := 0, hid := Hidden.resetData }
        fs := { sel := 0, hid := Hidden.resetData }
        gs := { sel := 0, hid := Hidden.resetData } }
    cpl := 0
    inhibit := false
    fpuPending := false
    shutdown := false
    mem := []
    admitted := [{ base := 0, size := 0x100000000 }]
    text := []
    freeCount := 0 }

end Sys2Proof.Machine
end

