-- ==== Sys2Proof/Config.lean ====
section
/-! DEFINITION. The open parameters of the step (00_scope.md R6, 10_state.md R42): opaque constants with no body, so that
nothing can be proved of their values. -/

namespace Sys2Proof.Config

open Sys2Proof.Machine

/-- The three bits of a page-fault error code (20_memory.md R56). -/
structure PageFaultCode where
  /-- Bit 0: the page was present. -/
  present : Bool
  /-- Bit 1: the access was a write. -/
  write : Bool
  /-- Bit 2: the access was made at CPL 3. -/
  user : Bool
deriving DecidableEq, Repr, Inhabited

/-- What `Translate` answers (20_memory.md R56). Of the code of a page fault it chooses bit 0 alone, whether the page was
present: bits 1 and 2 repeat its arguments. -/
inductive Translation where
  | phys (addr : Nat)
  | pageFault (present : Bool)
deriving DecidableEq, Repr, Inhabited

/-- What `DescLookup` answers (20_memory.md R58). -/
inductive DescLookup where
  /-- The selector's index is outside the descriptor table's limits. -/
  | outsideTable
  /-- The entry is not the descriptor of a code or data segment. -/
  | notCodeOrData
  | found (d : Descriptor)
deriving DecidableEq, Repr, Inhabited

/-- `Translate` (20_memory.md R56, D19): memory contents, linear byte address, is it a write, is it made at CPL 3. The
control state that the spec does not model is fixed by the constant. Not consulted in real-address mode. -/
opaque translate : Memory → Dword → Bool → Bool → Translation

/-- `DescLookup` (20_memory.md R58, D22): memory contents and a selector that is not null. -/
opaque descLookup : Memory → Word → DescLookup

/-- `ExcChoice` (60_exceptions.md R372, D3): with a pending FPU exception and a memory operand that would raise, is
`#MF` the one reported? A function of the state. -/
opaque excChoice : State → Bool

/-- `PushSregUpper` (49_push_pxor.md R326, D9): the upper 16 bits that a 32-bit PUSH of a segment register stores. A free
value: the state holds `freeCount`, so it may differ from one execution to the next. -/
opaque pushSregUpper : State → Word

/-- `PopWrapWriteLoc` (45_pop.md R206, U1): the offset that POP m writes when a 16-bit stack pointer wraps and the operand
is addressed through ESP. A free value of the state before the instruction and the operand. -/
opaque popWrapWriteLoc : State → MemOp → Dword

/-- `InhibitChain` (60_exceptions.md R381, U2): does a POP SS executed with `inhibit = 1` inhibit again? A free value. -/
opaque inhibitChain : State → Bool

end Sys2Proof.Config
end

