-- ==== Sys2Proof/WellFormed.lean ====
section
/-! DEFINITION. Which terms of `Instr` an encoding stands for. Every operand is an enumeration or a bit field of its
encoded width, so the only ill-formed terms are the addressing forms that the ModR/M and SIB tables do not have. -/

namespace Sys2Proof

/-- The addressing forms of R90, R91 and R93. Refused: `[BP]` without displacement (rm = 6, mod = 0 is disp16),
`[ESP]` without a SIB byte (rm = 4 is SIB), and EBP as a base without displacement (rm = 5 or SIB base = 5 with
mod = 0 has no base register). -/
def Addr.wf : Addr → Bool
  | .a16 .bp .none => false
  | .a16 _ _ => true
  | .abs16 _ => true
  | .a32 .esp _ => false
  | .a32 .ebp .none => false
  | .a32 _ _ => true
  | .abs32 _ => true
  | .sib .ebp _ _ .none => false
  | .sib _ _ _ _ => true
  | .sibNoBase _ _ _ => true

/-- A memory operand is well-formed when its addressing form is. -/
def MemOp.wf (m : MemOp) : Bool := m.addr.wf

/-- A register operand is always well-formed. -/
def MmSrc.wf : MmSrc → Bool
  | .reg _ => true
  | .mem m => m.wf

/-- A register operand is always well-formed. -/
def RmSrc.wf : RmSrc → Bool
  | .reg _ => true
  | .mem m => m.wf

/-- The instructions that an encoding stands for. -/
def Instr.wf : Instr → Bool
  | .packsswb _ src => src.wf
  | .packssdw _ src => src.wf
  | .packuswb _ src => src.wf
  | .paddb _ src => src.wf
  | .paddw _ src => src.wf
  | .paddd _ src => src.wf
  | .paddsb _ src => src.wf
  | .paddsw _ src => src.wf
  | .paddusb _ src => src.wf
  | .paddusw _ src => src.wf
  | .pand _ src => src.wf
  | .pandn _ src => src.wf
  | .pcmpeqb _ src => src.wf
  | .pcmpeqw _ src => src.wf
  | .pcmpeqd _ src => src.wf
  | .pcmpgtb _ src => src.wf
  | .pcmpgtw _ src => src.wf
  | .pcmpgtd _ src => src.wf
  | .pmaddwd _ src => src.wf
  | .pmulhw _ src => src.wf
  | .pmullw _ src => src.wf
  | .por _ src => src.wf
  | .psllw _ src => src.wf
  | .psllwImm _ _ => true
  | .pslld _ src => src.wf
  | .pslldImm _ _ => true
  | .psllq _ src => src.wf
  | .psllqImm _ _ => true
  | .psraw _ src => src.wf
  | .psrawImm _ _ => true
  | .psrad _ src => src.wf
  | .psradImm _ _ => true
  | .psrlw _ src => src.wf
  | .psrlwImm _ _ => true
  | .psrld _ src => src.wf
  | .psrldImm _ _ => true
  | .psrlq _ src => src.wf
  | .psrlqImm _ _ => true
  | .psubb _ src => src.wf
  | .psubw _ src => src.wf
  | .psubd _ src => src.wf
  | .psubsb _ src => src.wf
  | .psubsw _ src => src.wf
  | .psubusb _ src => src.wf
  | .psubusw _ src => src.wf
  | .punpckhbw _ src => src.wf
  | .punpckhwd _ src => src.wf
  | .punpckhdq _ src => src.wf
  | .punpcklbw _ src => src.wf
  | .punpcklwd _ src => src.wf
  | .punpckldq _ src => src.wf
  | .pxor _ src => src.wf
  | .popM16 dst => dst.wf
  | .popM32 dst => dst.wf
  | .popR16 _ => true
  | .popR32 _ => true
  | .popDs _ => true
  | .popEs _ => true
  | .popSs _ => true
  | .popFs _ => true
  | .popGs _ => true
  | .popa => true
  | .popad => true
  | .popf => true
  | .popfd => true
  | .pushRm16 src => src.wf
  | .pushRm32 src => src.wf
  | .pushR16 _ => true
  | .pushR32 _ => true
  | .pushImm8 _ _ => true
  | .pushImm16 _ => true
  | .pushImm32 _ => true
  | .pushCs _ => true
  | .pushSs _ => true
  | .pushDs _ => true
  | .pushEs _ => true
  | .pushFs _ => true
  | .pushGs _ => true
  | .pusha => true
  | .pushad => true
  | .pushf => true
  | .pushfd => true

end Sys2Proof
end

