-- ==== Sys2Proof/Decode.lean ====
section
/-! DEFINITION. The decoder from bytes to `Instr` and, after it, the encoder (30_encoding.md). The decoder takes the
default operand and address size of the code segment, `sreg[CS].hid.db`, because rows that share their opcode
are told apart by `OperandSize` alone (R106, R112). -/

namespace Sys2Proof

/-! ## Numbers of registers (R21, R33, R82) -/

/-- The general register of a 3-bit number (10_state.md R21). -/
def Reg.ofBits (b : BitVec 3) : Reg :=
  match b.toNat with
  | 0 => .eax | 1 => .ecx | 2 => .edx | 3 => .ebx | 4 => .esp | 5 => .ebp | 6 => .esi | _ => .edi

/-- The 3-bit number of a general register (R21). -/
def Reg.toBits : Reg → BitVec 3
  | .eax => 0 | .ecx => 1 | .edx => 2 | .ebx => 3 | .esp => 4 | .ebp => 5 | .esi => 6 | .edi => 7

/-- The MMX register of a 3-bit number (10_state.md R33). -/
def MReg.ofBits (b : BitVec 3) : MReg :=
  match b.toNat with
  | 0 => .mm0 | 1 => .mm1 | 2 => .mm2 | 3 => .mm3 | 4 => .mm4 | 5 => .mm5 | 6 => .mm6 | _ => .mm7

/-- The 3-bit number of an MMX register (R33). -/
def MReg.toBits : MReg → BitVec 3
  | .mm0 => 0 | .mm1 => 1 | .mm2 => 2 | .mm3 => 3 | .mm4 => 4 | .mm5 => 5 | .mm6 => 6 | .mm7 => 7

/-- The 16-bit base form of a 3-bit rm field (R91). -/
def Base16.ofBits (b : BitVec 3) : Base16 :=
  match b.toNat with
  | 0 => .bxsi | 1 => .bxdi | 2 => .bpsi | 3 => .bpdi | 4 => .si | 5 => .di | 6 => .bp | _ => .bx

/-- The rm field of a 16-bit base form (R91). -/
def Base16.toBits : Base16 → BitVec 3
  | .bxsi => 0 | .bxdi => 1 | .bpsi => 2 | .bpdi => 3 | .si => 4 | .di => 5 | .bp => 6 | .bx => 7

/-- The segment-override prefix bytes (R82). -/
def SReg.overrideByte : SReg → Byte
  | .cs => 0x2E | .ss => 0x36 | .ds => 0x3E | .es => 0x26 | .fs => 0x64 | .gs => 0x65

/-! ## Fields and little-endian fields -/

/-- `mod`, bits 7:6 of the ModR/M byte; the scale of a SIB byte stands in the same bits (R87, R93). -/
def modField (b : Byte) : BitVec 2 := b.extractLsb' 6 2

/-- `reg`, bits 5:3 of the ModR/M byte; the index of a SIB byte stands in the same bits (R87, R93). -/
def regField (b : Byte) : BitVec 3 := b.extractLsb' 3 3

/-- `rm`, bits 2:0 of the ModR/M byte; the base of a SIB byte stands in the same bits (R87, R93). -/
def rmField (b : Byte) : BitVec 3 := b.extractLsb' 0 3

/-- A byte of three fields of 2, 3 and 3 bits: a ModR/M byte or a SIB byte (R87, R93). -/
def fieldByte (hi : BitVec 2) (mid lo : BitVec 3) : Byte := hi ++ mid ++ lo

/-- The next byte. -/
def take8 : List Byte → Except DecodeError (Byte × List Byte)
  | b :: bs => .ok (b, bs)
  | [] => .error .truncated

/-- The next two bytes, least significant first (R94). -/
def take16 : List Byte → Except DecodeError (Word × List Byte)
  | b0 :: b1 :: bs => .ok (b1 ++ b0, bs)
  | _ => .error .truncated

/-- The next four bytes, least significant first (R94). -/
def take32 : List Byte → Except DecodeError (Dword × List Byte)
  | b0 :: b1 :: b2 :: b3 :: bs => .ok (b3 ++ b2 ++ b1 ++ b0, bs)
  | _ => .error .truncated

/-- The two bytes of a word, least significant first (R94). -/
def bytes16 (v : Word) : List Byte := [v.extractLsb' 0 8, v.extractLsb' 8 8]

/-- The four bytes of a doubleword, least significant first (R94). -/
def bytes32 (v : Dword) : List Byte :=
  [v.extractLsb' 0 8, v.extractLsb' 8 8, v.extractLsb' 16 8, v.extractLsb' 24 8]

/-! ## Prefixes (R82 to R85) -/

/-- The prefixes seen so far: at most one of each admitted column of R83. -/
structure Prefixes where
  op66 : Bool
  addr67 : Bool
  seg : Option SReg
deriving DecidableEq, Repr

/-- No prefix. -/
def Prefixes.none : Prefixes := { op66 := false, addr67 := false, seg := Option.none }

/-- What a byte is as a prefix (R82). -/
inductive PrefixKind where
  | opSize
  | addrSize
  | segment (s : SReg)
  | lockOrRep
deriving DecidableEq, Repr

/-- The prefix table of R82; `none` for a byte that is not a prefix. -/
def prefixKind (b : Byte) : Option PrefixKind :=
  match b.toNat with
  | 0x66 => some .opSize
  | 0x67 => some .addrSize
  | 0x2E => some (.segment .cs)
  | 0x36 => some (.segment .ss)
  | 0x3E => some (.segment .ds)
  | 0x26 => some (.segment .es)
  | 0x64 => some (.segment .fs)
  | 0x65 => some (.segment .gs)
  | 0xF0 => some .lockOrRep
  | 0xF2 => some .lockOrRep
  | 0xF3 => some .lockOrRep
  | _ => Option.none

/-- Reads prefixes until a byte that is none (R81), refusing a repeated one (R83) and LOCK and REP (R85). -/
def scanPrefixes (p : Prefixes) : List Byte → Except DecodeError (Prefixes × List Byte)
  | [] => .error .truncated
  | b :: bs =>
    match prefixKind b with
    | Option.none => .ok (p, b :: bs)
    | some .opSize => if p.op66 then .error (.repeatedPrefix b) else scanPrefixes { p with op66 := true } bs
    | some .addrSize => if p.addr67 then .error (.repeatedPrefix b) else scanPrefixes { p with addr67 := true } bs
    | some (.segment s) =>
      if p.seg.isSome then .error (.repeatedPrefix b) else scanPrefixes { p with seg := some s } bs
    | some .lockOrRep => .error (.lockOrRep b)

/-- `OperandSize`: the default of the code segment, switched by 0x66 (10_state.md R43). -/
def Prefixes.opSize (p : Prefixes) (db : Bool) : OpSize := if db != p.op66 then .w32 else .w16

/-- `AddressSize = 32`: the default of the code segment, switched by 0x67 (10_state.md R44). -/
def Prefixes.addr32 (p : Prefixes) (db : Bool) : Bool := db != p.addr67

/-- Neither 0x67 nor a segment override: all that an instruction without a memory operand admits (R83). -/
def Prefixes.noAddress (p : Prefixes) : Bool := !p.addr67 && p.seg.isNone

/-! ## ModR/M, SIB and displacement (R87 to R93) -/

/-- The operand that `mod` and `rm` name: a register number or an addressing form (R88, R90, R91). -/
inductive RmForm where
  | reg (n : BitVec 3)
  | mem (a : Addr)
deriving DecidableEq, Repr

/-- The displacement of a 32-bit form with mod = 0, 1 or 2 (R90). -/
def takeDisp32 (mod : BitVec 2) (bs : List Byte) : Except DecodeError (Disp32 × List Byte) :=
  match mod.toNat with
  | 0 => .ok (.none, bs)
  | 1 => do let (d, bs) ← take8 bs; .ok (.d8 d, bs)
  | _ => do let (d, bs) ← take32 bs; .ok (.d32 d, bs)

/-- The displacement of a 16-bit form with mod = 0, 1 or 2 (R91). -/
def takeDisp16 (mod : BitVec 2) (bs : List Byte) : Except DecodeError (Disp16 × List Byte) :=
  match mod.toNat with
  | 0 => .ok (.none, bs)
  | 1 => do let (d, bs) ← take8 bs; .ok (.d8 d, bs)
  | _ => do let (d, bs) ← take16 bs; .ok (.d16 d, bs)

/-- The SIB byte and what follows it (R93). -/
def decodeSib (mod : BitVec 2) (bs : List Byte) : Except DecodeError (Addr × List Byte) := do
  let (sib, bs) ← take8 bs
  if rmField sib = 5 ∧ mod = 0 then
    let (d, bs) ← take32 bs
    .ok (.sibNoBase (modField sib) (Reg.ofBits (regField sib)) d, bs)
  else
    let (d, bs) ← takeDisp32 mod bs
    .ok (.sib (Reg.ofBits (rmField sib)) (modField sib) (Reg.ofBits (regField sib)) d, bs)

/-- The 32-bit addressing table, mod not 3 (R90). -/
def decodeAddr32 (mod : BitVec 2) (rm : BitVec 3) (bs : List Byte) : Except DecodeError (Addr × List Byte) :=
  if rm = 4 then decodeSib mod bs
  else if rm = 5 ∧ mod = 0 then do let (d, bs) ← take32 bs; .ok (.abs32 d, bs)
  else do let (d, bs) ← takeDisp32 mod bs; .ok (.a32 (Reg.ofBits rm) d, bs)

/-- The 16-bit addressing table, mod not 3 (R91). -/
def decodeAddr16 (mod : BitVec 2) (rm : BitVec 3) (bs : List Byte) : Except DecodeError (Addr × List Byte) :=
  if rm = 6 ∧ mod = 0 then do let (d, bs) ← take16 bs; .ok (.abs16 d, bs)
  else do let (d, bs) ← takeDisp16 mod bs; .ok (.a16 (Base16.ofBits rm) d, bs)

/-- The ModR/M byte itself, the operand that its `mod` and `rm` name, and the bytes after that operand. -/
def decodeModRM (a32 : Bool) (bs : List Byte) : Except DecodeError (Byte × RmForm × List Byte) := do
  let (m, bs) ← take8 bs
  if modField m = 3 then .ok (m, .reg (rmField m), bs)
  else
    let (a, bs) ← if a32 then decodeAddr32 (modField m) (rmField m) bs else decodeAddr16 (modField m) (rmField m) bs
    .ok (m, .mem a, bs)

/-! ## The opcode maps (R96 to R100) -/

/-- The `0F xx /r` rows of R96: the constructor of a second opcode byte. -/
def mmxRow (b : Byte) : Option (MReg → MmSrc → Instr) :=
  match b.toNat with
  | 0x60 => some .punpcklbw
  | 0x61 => some .punpcklwd
  | 0x62 => some .punpckldq
  | 0x63 => some .packsswb
  | 0x64 => some .pcmpgtb
  | 0x65 => some .pcmpgtw
  | 0x66 => some .pcmpgtd
  | 0x67 => some .packuswb
  | 0x68 => some .punpckhbw
  | 0x69 => some .punpckhwd
  | 0x6A => some .punpckhdq
  | 0x6B => some .packssdw
  | 0x74 => some .pcmpeqb
  | 0x75 => some .pcmpeqw
  | 0x76 => some .pcmpeqd
  | 0xD1 => some .psrlw
  | 0xD2 => some .psrld
  | 0xD3 => some .psrlq
  | 0xD5 => some .pmullw
  | 0xD8 => some .psubusb
  | 0xD9 => some .psubusw
  | 0xDB => some .pand
  | 0xDC => some .paddusb
  | 0xDD => some .paddusw
  | 0xDF => some .pandn
  | 0xE1 => some .psraw
  | 0xE2 => some .psrad
  | 0xE5 => some .pmulhw
  | 0xE8 => some .psubsb
  | 0xE9 => some .psubsw
  | 0xEB => some .por
  | 0xEC => some .paddsb
  | 0xED => some .paddsw
  | 0xEF => some .pxor
  | 0xF1 => some .psllw
  | 0xF2 => some .pslld
  | 0xF3 => some .psllq
  | 0xF5 => some .pmaddwd
  | 0xF8 => some .psubb
  | 0xF9 => some .psubw
  | 0xFA => some .psubd
  | 0xFC => some .paddb
  | 0xFD => some .paddw
  | 0xFE => some .paddd
  | _ => Option.none

/-- The shift-by-immediate groups of R97: the constructor of a second opcode byte and a `reg` digit. -/
def mmxShiftRow (b : Byte) (digit : BitVec 3) : Option (MReg → Byte → Instr) :=
  match b.toNat, digit.toNat with
  | 0x71, 6 => some .psllwImm
  | 0x72, 6 => some .pslldImm
  | 0x73, 6 => some .psllqImm
  | 0x71, 4 => some .psrawImm
  | 0x72, 4 => some .psradImm
  | 0x71, 2 => some .psrlwImm
  | 0x72, 2 => some .psrldImm
  | 0x73, 2 => some .psrlqImm
  | _, _ => Option.none

/-- An instruction whose encoding ends with its opcode: it admits 0x66 alone (R83). -/
def decodeFixed (p : Prefixes) (i : Instr) (bs : List Byte) : Except DecodeError (Instr × List Byte) :=
  if p.noAddress then .ok (i, bs) else .error .prefixNotAdmitted

/-- The rest of a `0F xx /r` MMX row (R95, formats MMX_RM and MMX_RM32): no 0x66, and 0x67 or a segment override
only with a memory operand (R83). -/
def decodeMmxRm (db : Bool) (p : Prefixes) (mk : MReg → MmSrc → Instr) (bs : List Byte) :
    Except DecodeError (Instr × List Byte) := do
  let (m, rm, bs) ← decodeModRM (p.addr32 db) bs
  if p.op66 then .error .prefixNotAdmitted
  else
    match rm with
    | .reg n => decodeFixed p (mk (MReg.ofBits (regField m)) (.reg (MReg.ofBits n))) bs
    | .mem a => .ok (mk (MReg.ofBits (regField m)) (.mem { seg := p.seg, addr := a }), bs)

/-- The rest of a shift-by-immediate row (R95, format MMX_SHI): mod must be 3 and no prefix is admitted. -/
def decodeMmxShift (p : Prefixes) (b : Byte) (bs : List Byte) : Except DecodeError (Instr × List Byte) := do
  let (m, bs) ← take8 bs
  match mmxShiftRow b (regField m) with
  | Option.none => .error (.noGroupRow b m)
  | some mk =>
    if modField m = 3 then
      let (ib, bs) ← take8 bs
      if p.op66 then .error .prefixNotAdmitted
      else decodeFixed p (mk (MReg.ofBits (rmField m)) ib) bs
    else .error (.noGroupRow b m)

/-- The rows whose first opcode byte is 0F (R96 to R99). -/
def decode0F (db : Bool) (p : Prefixes) (b : Byte) (bs : List Byte) : Except DecodeError (Instr × List Byte) :=
  match mmxRow b with
  | some mk => decodeMmxRm db p mk bs
  | Option.none =>
    match b.toNat with
    | 0x71 => decodeMmxShift p b bs
    | 0x72 => decodeMmxShift p b bs
    | 0x73 => decodeMmxShift p b bs
    | 0xA0 => decodeFixed p (.pushFs (p.opSize db)) bs
    | 0xA1 => decodeFixed p (.popFs (p.opSize db)) bs
    | 0xA8 => decodeFixed p (.pushGs (p.opSize db)) bs
    | 0xA9 => decodeFixed p (.popGs (p.opSize db)) bs
    | _ => .error (.noRow0F b)

/-- `8F /0` with a memory operand: POP m16 and POP m32 (R98). -/
def decodePopM (db : Bool) (p : Prefixes) (bs : List Byte) : Except DecodeError (Instr × List Byte) := do
  let (m, rm, bs) ← decodeModRM (p.addr32 db) bs
  match rm with
  | .reg _ => .error (.noGroupRow 0x8F m)
  | .mem a =>
    if regField m = 0 then
      match p.opSize db with
      | .w16 => .ok (.popM16 { seg := p.seg, addr := a }, bs)
      | .w32 => .ok (.popM32 { seg := p.seg, addr := a }, bs)
    else .error (.noGroupRow 0x8F m)

/-- `FF /6`: PUSH r/m16 and PUSH r/m32 (R99). -/
def decodePushRm (db : Bool) (p : Prefixes) (bs : List Byte) : Except DecodeError (Instr × List Byte) := do
  let (m, rm, bs) ← decodeModRM (p.addr32 db) bs
  if regField m = 6 then
    match rm, p.opSize db with
    | .reg n, .w16 => decodeFixed p (.pushRm16 (.reg (Reg.ofBits n))) bs
    | .reg n, .w32 => decodeFixed p (.pushRm32 (.reg (Reg.ofBits n))) bs
    | .mem a, .w16 => .ok (.pushRm16 (.mem { seg := p.seg, addr := a }), bs)
    | .mem a, .w32 => .ok (.pushRm32 (.mem { seg := p.seg, addr := a }), bs)
  else .error (.noGroupRow 0xFF m)

/-- The rows `50+r` and `58+r`: the register number is in the low three bits of the opcode (R98, R99). -/
def decodePlusR (db : Bool) (p : Prefixes) (b : Byte) (bs : List Byte) : Except DecodeError (Instr × List Byte) :=
  let r := Reg.ofBits (rmField b)
  match (b.extractLsb' 3 5).toNat, p.opSize db with
  | 0x0A, .w16 => decodeFixed p (.pushR16 r) bs
  | 0x0A, .w32 => decodeFixed p (.pushR32 r) bs
  | 0x0B, .w16 => decodeFixed p (.popR16 r) bs
  | 0x0B, .w32 => decodeFixed p (.popR32 r) bs
  | _, _ => .error (.noRow b)

/-- `68 iw` or `68 id` by `OperandSize` (R86, R95 format OP_IMMV). -/
def decodePushImmV (db : Bool) (p : Prefixes) (bs : List Byte) : Except DecodeError (Instr × List Byte) :=
  match p.opSize db with
  | .w16 => do let (d, bs) ← take16 bs; decodeFixed p (.pushImm16 d) bs
  | .w32 => do let (d, bs) ← take32 bs; decodeFixed p (.pushImm32 d) bs

/-- The rows of one opcode byte (R98 to R100). -/
def decode1 (db : Bool) (p : Prefixes) (b : Byte) (bs : List Byte) : Except DecodeError (Instr × List Byte) :=
  match b.toNat with
  | 0x06 => decodeFixed p (.pushEs (p.opSize db)) bs
  | 0x07 => decodeFixed p (.popEs (p.opSize db)) bs
  | 0x0E => decodeFixed p (.pushCs (p.opSize db)) bs
  | 0x16 => decodeFixed p (.pushSs (p.opSize db)) bs
  | 0x17 => decodeFixed p (.popSs (p.opSize db)) bs
  | 0x1E => decodeFixed p (.pushDs (p.opSize db)) bs
  | 0x1F => decodeFixed p (.popDs (p.opSize db)) bs
  | 0x60 => decodeFixed p (match p.opSize db with | .w16 => .pusha | .w32 => .pushad) bs
  | 0x61 => decodeFixed p (match p.opSize db with | .w16 => .popa | .w32 => .popad) bs
  | 0x68 => decodePushImmV db p bs
  | 0x6A => do let (ib, bs) ← take8 bs; decodeFixed p (.pushImm8 (p.opSize db) ib) bs
  | 0x8F => decodePopM db p bs
  | 0x9C => decodeFixed p (match p.opSize db with | .w16 => .pushf | .w32 => .pushfd) bs
  | 0x9D => decodeFixed p (match p.opSize db with | .w16 => .popf | .w32 => .popfd) bs
  | 0xFF => decodePushRm db p bs
  | _ => decodePlusR db p b bs

/-- The decoder: the first instruction of the bytes and the bytes after it, or the name of a refusal (R81, R111).
`db` is the default size of the code segment (10_state.md R43, R44). -/
def decode (db : Bool) (bs : List Byte) : Except DecodeError (Instr × List Byte) := do
  let (p, bs) ← scanPrefixes Prefixes.none bs
  let (b, bs) ← take8 bs
  if b = 0x0F then
    let (b2, bs) ← take8 bs
    decode0F db p b2 bs
  else decode1 db p b bs

/-! ## The opcode table's numbers -/

/-- The low `k` bytes of a number, the most significant first: the order in which the table's `match` numbers
an instruction's bytes (R106). -/
def bigEndianBytes : Nat → Nat → List Byte
  | 0, _ => []
  | k + 1, w => BitVec.ofNat 8 (w / 256 ^ k) :: bigEndianBytes k w

/-- The longest instruction that the real processor takes (R81). -/
def maxLength : Nat := 15

/-- The bytes of a table number: its most significant byte that is not zero is the first opcode byte (R106: no row
begins with a zero byte), and every byte after its last is zero. -/
def tableBytes (nbits w : Nat) : List Byte :=
  ((bigEndianBytes ((nbits + 7) / 8) w).dropWhile (fun b => b = 0) ++ List.replicate maxLength 0).take maxLength

/-- What the decoder reads from a number of spec/opcode_table.json, in a code segment of 16-bit default size, which
is the default at reset. -/
def decodeTableWord (nbits w : Nat) : Option Instr :=
  match decode false (tableBytes nbits w) with
  | .ok (i, _) => some i
  | .error _ => Option.none

/-! ## The encoder -/

/-- The operand-size prefix, present when the size is not the default (R43). -/
def opSizePrefix (db : Bool) : OpSize → List Byte
  | .w16 => if db then [0x66] else []
  | .w32 => if db then [] else [0x66]

/-- Is the addressing form one of `AddressSize = 32`? -/
def Addr.is32 : Addr → Bool
  | .a16 _ _ => false
  | .abs16 _ => false
  | .a32 _ _ => true
  | .abs32 _ => true
  | .sib _ _ _ _ => true
  | .sibNoBase _ _ _ => true

/-- The address-size prefix and the segment override of a memory operand (R44, R84). -/
def MemOp.prefixes (db : Bool) (m : MemOp) : List Byte :=
  (if m.addr.is32 = db then [] else [0x67]) ++
    (match m.seg with
     | Option.none => []
     | some s => [s.overrideByte])

/-- `mod` of a 32-bit displacement (R90). -/
def Disp32.mod : Disp32 → BitVec 2
  | .none => 0
  | .d8 _ => 1
  | .d32 _ => 2

/-- The bytes of a 32-bit displacement (R90). -/
def Disp32.bytes : Disp32 → List Byte
  | .none => []
  | .d8 d => [d]
  | .d32 d => bytes32 d

/-- `mod` of a 16-bit displacement (R91). -/
def Disp16.mod : Disp16 → BitVec 2
  | .none => 0
  | .d8 _ => 1
  | .d16 _ => 2

/-- The bytes of a 16-bit displacement (R91). -/
def Disp16.bytes : Disp16 → List Byte
  | .none => []
  | .d8 d => [d]
  | .d16 d => bytes16 d

/-- The ModR/M byte with `reg = r`, the SIB byte and the displacement of an addressing form (R90, R91, R93). -/
def Addr.modrmBytes (r : BitVec 3) : Addr → List Byte
  | .a16 b d => fieldByte d.mod r b.toBits :: d.bytes
  | .abs16 o => fieldByte 0 r 6 :: bytes16 o
  | .a32 b d => fieldByte d.mod r b.toBits :: d.bytes
  | .abs32 o => fieldByte 0 r 5 :: bytes32 o
  | .sib b s i d => fieldByte d.mod r 4 :: fieldByte s i.toBits b.toBits :: d.bytes
  | .sibNoBase s i o => fieldByte 0 r 4 :: fieldByte s i.toBits 5 :: bytes32 o

/-- A `0F op /r` row (formats MMX_RM and MMX_RM32). -/
def encodeMmxRm (db : Bool) (op : Byte) (dst : MReg) : MmSrc → List Byte
  | .reg s => [0x0F, op, fieldByte 3 dst.toBits s.toBits]
  | .mem m => m.prefixes db ++ [0x0F, op] ++ m.addr.modrmBytes dst.toBits

/-- A `0F op /digit ib` row (format MMX_SHI). -/
def encodeMmxShift (op : Byte) (digit : BitVec 3) (dst : MReg) (ib : Byte) : List Byte :=
  [0x0F, op, fieldByte 3 digit dst.toBits, ib]

/-- A `/digit` row with a memory operand (formats OP_M and OP_RM). -/
def encodeOpMem (db : Bool) (sz : OpSize) (op : Byte) (digit : BitVec 3) (m : MemOp) : List Byte :=
  opSizePrefix db sz ++ m.prefixes db ++ [op] ++ m.addr.modrmBytes digit

/-- PUSH r/m (format OP_RM). -/
def encodePushRm (db : Bool) (sz : OpSize) : RmSrc → List Byte
  | .reg r => opSizePrefix db sz ++ [0xFF, fieldByte 3 6 r.toBits]
  | .mem m => encodeOpMem db sz 0xFF 6 m

/-- An opcode byte with a register number in its low three bits (format OP_PLUSR); `hi` is its high five bits. -/
def plusRByte (hi : BitVec 5) (r : Reg) : Byte := hi ++ r.toBits

/-- The bytes of an instruction in a code segment of default size `db`, prefixes in the order 0x66, 0x67, segment
override (any order is admitted, R82). -/
def encode (db : Bool) : Instr → List Byte
  | .packsswb dst src => encodeMmxRm db 0x63 dst src
  | .packssdw dst src => encodeMmxRm db 0x6B dst src
  | .packuswb dst src => encodeMmxRm db 0x67 dst src
  | .paddb dst src => encodeMmxRm db 0xFC dst src
  | .paddw dst src => encodeMmxRm db 0xFD dst src
  | .paddd dst src => encodeMmxRm db 0xFE dst src
  | .paddsb dst src => encodeMmxRm db 0xEC dst src
  | .paddsw dst src => encodeMmxRm db 0xED dst src
  | .paddusb dst src => encodeMmxRm db 0xDC dst src
  | .paddusw dst src => encodeMmxRm db 0xDD dst src
  | .pand dst src => encodeMmxRm db 0xDB dst src
  | .pandn dst src => encodeMmxRm db 0xDF dst src
  | .pcmpeqb dst src => encodeMmxRm db 0x74 dst src
  | .pcmpeqw dst src => encodeMmxRm db 0x75 dst src
  | .pcmpeqd dst src => encodeMmxRm db 0x76 dst src
  | .pcmpgtb dst src => encodeMmxRm db 0x64 dst src
  | .pcmpgtw dst src => encodeMmxRm db 0x65 dst src
  | .pcmpgtd dst src => encodeMmxRm db 0x66 dst src
  | .pmaddwd dst src => encodeMmxRm db 0xF5 dst src
  | .pmulhw dst src => encodeMmxRm db 0xE5 dst src
  | .pmullw dst src => encodeMmxRm db 0xD5 dst src
  | .por dst src => encodeMmxRm db 0xEB dst src
  | .psllw dst src => encodeMmxRm db 0xF1 dst src
  | .psllwImm dst ib => encodeMmxShift 0x71 6 dst ib
  | .pslld dst src => encodeMmxRm db 0xF2 dst src
  | .pslldImm dst ib => encodeMmxShift 0x72 6 dst ib
  | .psllq dst src => encodeMmxRm db 0xF3 dst src
  | .psllqImm dst ib => encodeMmxShift 0x73 6 dst ib
  | .psraw dst src => encodeMmxRm db 0xE1 dst src
  | .psrawImm dst ib => encodeMmxShift 0x71 4 dst ib
  | .psrad dst src => encodeMmxRm db 0xE2 dst src
  | .psradImm dst ib => encodeMmxShift 0x72 4 dst ib
  | .psrlw dst src => encodeMmxRm db 0xD1 dst src
  | .psrlwImm dst ib => encodeMmxShift 0x71 2 dst ib
  | .psrld dst src => encodeMmxRm db 0xD2 dst src
  | .psrldImm dst ib => encodeMmxShift 0x72 2 dst ib
  | .psrlq dst src => encodeMmxRm db 0xD3 dst src
  | .psrlqImm dst ib => encodeMmxShift 0x73 2 dst ib
  | .psubb dst src => encodeMmxRm db 0xF8 dst src
  | .psubw dst src => encodeMmxRm db 0xF9 dst src
  | .psubd dst src => encodeMmxRm db 0xFA dst src
  | .psubsb dst src => encodeMmxRm db 0xE8 dst src
  | .psubsw dst src => encodeMmxRm db 0xE9 dst src
  | .psubusb dst src => encodeMmxRm db 0xD8 dst src
  | .psubusw dst src => encodeMmxRm db 0xD9 dst src
  | .punpckhbw dst src => encodeMmxRm db 0x68 dst src
  | .punpckhwd dst src => encodeMmxRm db 0x69 dst src
  | .punpckhdq dst src => encodeMmxRm db 0x6A dst src
  | .punpcklbw dst src => encodeMmxRm db 0x60 dst src
  | .punpcklwd dst src => encodeMmxRm db 0x61 dst src
  | .punpckldq dst src => encodeMmxRm db 0x62 dst src
  | .pxor dst src => encodeMmxRm db 0xEF dst src
  | .popM16 dst => encodeOpMem db .w16 0x8F 0 dst
  | .popM32 dst => encodeOpMem db .w32 0x8F 0 dst
  | .popR16 r => opSizePrefix db .w16 ++ [plusRByte 0x0B r]
  | .popR32 r => opSizePrefix db .w32 ++ [plusRByte 0x0B r]
  | .popDs sz => opSizePrefix db sz ++ [0x1F]
  | .popEs sz => opSizePrefix db sz ++ [0x07]
  | .popSs sz => opSizePrefix db sz ++ [0x17]
  | .popFs sz => opSizePrefix db sz ++ [0x0F, 0xA1]
  | .popGs sz => opSizePrefix db sz ++ [0x0F, 0xA9]
  | .popa => opSizePrefix db .w16 ++ [0x61]
  | .popad => opSizePrefix db .w32 ++ [0x61]
  | .popf => opSizePrefix db .w16 ++ [0x9D]
  | .popfd => opSizePrefix db .w32 ++ [0x9D]
  | .pushRm16 src => encodePushRm db .w16 src
  | .pushRm32 src => encodePushRm db .w32 src
  | .pushR16 r => opSizePrefix db .w16 ++ [plusRByte 0x0A r]
  | .pushR32 r => opSizePrefix db .w32 ++ [plusRByte 0x0A r]
  | .pushImm8 sz ib => opSizePrefix db sz ++ [0x6A, ib]
  | .pushImm16 d => opSizePrefix db .w16 ++ 0x68 :: bytes16 d
  | .pushImm32 d => opSizePrefix db .w32 ++ 0x68 :: bytes32 d
  | .pushCs sz => opSizePrefix db sz ++ [0x0E]
  | .pushSs sz => opSizePrefix db sz ++ [0x16]
  | .pushDs sz => opSizePrefix db sz ++ [0x1E]
  | .pushEs sz => opSizePrefix db sz ++ [0x06]
  | .pushFs sz => opSizePrefix db sz ++ [0x0F, 0xA0]
  | .pushGs sz => opSizePrefix db sz ++ [0x0F, 0xA8]
  | .pusha => opSizePrefix db .w16 ++ [0x60]
  | .pushad => opSizePrefix db .w32 ++ [0x60]
  | .pushf => opSizePrefix db .w16 ++ [0x9C]
  | .pushfd => opSizePrefix db .w32 ++ [0x9C]

/-- The length `L` of an instruction in bytes, prefixes included (R81). Every admitted encoding of it has this length:
no rule admits a redundant prefix other than a segment override, which the operand records. -/
def Instr.length (db : Bool) (i : Instr) : Nat := (encode db i).length

end Sys2Proof
end

