-- ==== Sys2Proof/Machine/Flags.lean ====
section
/-! DEFINITION. EFLAGS: its fields, the operating mode, what POPF may change and what PUSHF stores. No MMX instruction
and no other integer instruction reads or writes a flag (10_state.md R28). -/

namespace Sys2Proof.Machine

/-- VM is bit 17 of EFLAGS (10_state.md R26; 90_conflicts.md C19). -/
def flagVM (f : Dword) : Bool := f.getLsbD 17

/-- AC is bit 18 (R26). -/
def flagAC (f : Dword) : Bool := f.getLsbD 18

/-- IOPL is bits 13:12 (R26). -/
def flagIOPL (f : Dword) : BitVec 2 := f.extractLsb' 12 2

/-- The bits that hold a fixed value for ever: 1, 3, 5, 15 and 31:22 (10_state.md R27). -/
def reservedMask : Dword := 0xFFC0802A

/-- The values of the reserved bits: bit 1 is 1, the others 0 (R27). -/
def reservedValue : Dword := 0x00000002

/-- The invariant of R27. -/
def reservedOk (f : Dword) : Bool := f &&& reservedMask = reservedValue

/-- The three operating modes (00_scope.md R18). -/
inductive Mode where
  | real | prot | v86
deriving DecidableEq, Repr

/-- `Mode` (R18). -/
def State.mode (s : State) : Mode :=
  if s.cr0.pe then (if flagVM s.eflags then .v86 else .prot) else .real

/-- Bits that POPF and POPFD may modify: the mask `M` of the table of 45_pop.md R236. `CPL <= IOPL` decides whether IF
(bit 9) is among them in protected mode above level 0. In virtual-8086 mode the row is that of IOPL = 3;
R235 raises before it is used otherwise. -/
def popfModify (m : Mode) (cpl iopl : BitVec 2) (sz : OpSize) : Dword :=
  match m, sz with
  | .v86, .w32 => 0x00244FD5
  | .v86, .w16 => 0x00004FD5
  | .real, .w32 => 0x00257FD5
  | .real, .w16 => 0x00007FD5
  | .prot, .w32 => if cpl = 0 then 0x00257FD5 else if cpl ≤ iopl then 0x00254FD5 else 0x00254DD5
  | .prot, .w16 => if cpl = 0 then 0x00007FD5 else if cpl ≤ iopl then 0x00004FD5 else 0x00004DD5

/-- Bits that POPFD clears: the mask `Z` of R236 (VIF and VIP, outside virtual-8086 mode). -/
def popfClear (m : Mode) (sz : OpSize) : Dword :=
  match m, sz with
  | .v86, _ => 0
  | _, .w32 => 0x00180000
  | _, .w16 => 0

/-- EFLAGS after POPF or POPFD of the image `v` (45_pop.md R230): IOPL is its value before the instruction. -/
def popfFlags (m : Mode) (cpl : BitVec 2) (sz : OpSize) (old v : Dword) : Dword :=
  let mask := popfModify m cpl (flagIOPL old) sz
  (old &&& ~~~(mask ||| popfClear m sz)) ||| (v &&& mask)

/-- The image that PUSHF and PUSHFD store (49_push_pxor.md R340): the 32-bit form clears RF, VM and bits 31:24. -/
def pushfImage (sz : OpSize) (f : Dword) : Dword :=
  match sz with
  | .w32 => f &&& 0x00FCFFFF
  | .w16 => f &&& 0x0000FFFF

end Sys2Proof.Machine
end

