-- ==== Sys2Proof/Machine/Ops.lean ====
section
/-! DEFINITION. The operations that the meanings share: registers, memory, the access procedure of 20_memory.md R54,
the stack, segment loads, taking an exception, completing an instruction. -/

namespace Sys2Proof.Machine

/-! ## Registers -/

/-- `r32[i]` (00_scope.md R13). -/
def Regs.get (g : Regs) : Reg → Dword
  | .eax => g.eax | .ecx => g.ecx | .edx => g.edx | .ebx => g.ebx
  | .esp => g.esp | .ebp => g.ebp | .esi => g.esi | .edi => g.edi

/-- `r32[i] <- v` (R13). -/
def Regs.set (g : Regs) (r : Reg) (v : Dword) : Regs :=
  match r with
  | .eax => { g with eax := v } | .ecx => { g with ecx := v } | .edx => { g with edx := v } | .ebx => { g with ebx := v }
  | .esp => { g with esp := v } | .ebp => { g with ebp := v } | .esi => { g with esi := v } | .edi => { g with edi := v }

/-- `mm[i]` (R13). -/
def MmRegs.get (g : MmRegs) : MReg → Qword
  | .mm0 => g.mm0 | .mm1 => g.mm1 | .mm2 => g.mm2 | .mm3 => g.mm3
  | .mm4 => g.mm4 | .mm5 => g.mm5 | .mm6 => g.mm6 | .mm7 => g.mm7

/-- `mm[i] <- v` (R13). -/
def MmRegs.set (g : MmRegs) (r : MReg) (v : Qword) : MmRegs :=
  match r with
  | .mm0 => { g with mm0 := v } | .mm1 => { g with mm1 := v } | .mm2 => { g with mm2 := v } | .mm3 => { g with mm3 := v }
  | .mm4 => { g with mm4 := v } | .mm5 => { g with mm5 := v } | .mm6 => { g with mm6 := v } | .mm7 => { g with mm7 := v }

/-- `sreg[S]` (R13). -/
def Segs.get (g : Segs) : SReg → Segment
  | .cs => g.cs | .ss => g.ss | .ds => g.ds | .es => g.es | .fs => g.fs | .gs => g.gs

/-- `sreg[S] <- v`, both parts (R13). -/
def Segs.set (g : Segs) (r : SReg) (v : Segment) : Segs :=
  match r with
  | .cs => { g with cs := v } | .ss => { g with ss := v } | .ds => { g with ds := v }
  | .es => { g with es := v } | .fs => { g with fs := v } | .gs => { g with gs := v }

/-- `r32[r]` of a state. -/
def State.reg (s : State) (r : Reg) : Dword := s.regs.get r

/-- `r16[r]`: bits 15:0 of the register (10_state.md R22). -/
def State.reg16 (s : State) (r : Reg) : Word := (s.reg r).extractLsb' 0 16

/-- `r32[r] <- v`. -/
def State.setReg (s : State) (r : Reg) (v : Dword) : State := { s with regs := s.regs.set r v }

/-- `r16[r] <- v`: bits 31:16 of the register are unchanged (R22). -/
def State.setReg16 (s : State) (r : Reg) (v : Word) : State := s.setReg r ((s.reg r).extractLsb' 16 16 ++ v)

/-- The register of an operand size, zero-extended to 32 bits. -/
def State.regSz (s : State) (sz : OpSize) (r : Reg) : Dword :=
  match sz with
  | .w16 => (s.reg16 r).setWidth 32
  | .w32 => s.reg r

/-- Writes the register of an operand size; the 16-bit form takes bits 15:0 of the value. -/
def State.setRegSz (s : State) (sz : OpSize) (r : Reg) (v : Dword) : State :=
  match sz with
  | .w16 => s.setReg16 r (v.extractLsb' 0 16)
  | .w32 => s.setReg r v

/-- `mm[r]` of a state. -/
def State.getMm (s : State) (r : MReg) : Qword := s.mm.get r

/-- `mm[r] <- v`. -/
def State.setMm (s : State) (r : MReg) (v : Qword) : State := { s with mm := s.mm.set r v }

/-- `sreg[S]` of a state. -/
def State.seg (s : State) (S : SReg) : Segment := s.segs.get S

/-- `sreg[S] <- v`. -/
def State.setSeg (s : State) (S : SReg) (v : Segment) : State := { s with segs := s.segs.set S v }

/-- `EFLAGS <- v`. -/
def State.setFlags (s : State) (v : Dword) : State := { s with eflags := v }

/-- The memory contents become `m`. -/
def State.setMem (s : State) (m : Memory) : State := { s with mem := m }

/-- One more free value has been used (notes/assumptions/5.md). -/
def State.useFree (s : State) : State := { s with freeCount := s.freeCount + 1 }

/-! ## How an instruction can end short of completing -/

/-- What stops an instruction inside its rule. -/
inductive Stop where
  /-- `raise #XX(code)` (00_scope.md R16). -/
  | raise (e : Exn)
  /-- The processor shuts down (60_exceptions.md R383). -/
  | shutdown
  /-- The model has no meaning here (60_exceptions.md R362, Refused). -/
  | refuse (r : Refusal)
deriving DecidableEq, Repr

/-- A value, or the stop that replaces it. -/
abbrev Res (α : Type) := Except Stop α

/-- The outcome of an instruction. -/
abbrev Out := Host.Outcome State Fault Refusal

/-! ## Memory contents (20_memory.md R50) -/

/-- What an address that the memory does not list reads as (notes/assumptions/2.md). -/
def defaultByte : Byte := 0

/-- The canonical form: addresses strictly rising, no entry equal to what an unlisted address reads as. -/
abbrev Memory.wf (m : Memory) : Prop :=
  m.Pairwise (fun c d => c.1 < d.1) ∧ ∀ c ∈ m, c.2 ≠ defaultByte

/-- The byte at an address. -/
def Memory.read : Memory → Nat → Byte
  | [], _ => defaultByte
  | c :: m, a => if c.1 = a then c.2 else Memory.read m a

/-- Puts an entry before the first entry of a higher address. -/
def Memory.insertCell : Memory → Nat → Byte → Memory
  | [], a, b => [(a, b)]
  | c :: m, a, b => if a < c.1 then (a, b) :: c :: m else c :: Memory.insertCell m a b

/-- Stores a byte: the old entry of the address goes, and a new one is listed unless the byte is the default. -/
def Memory.write (m : Memory) (a : Nat) (b : Byte) : Memory :=
  let rest := m.filter (fun c => c.1 ≠ a)
  if b = defaultByte then rest else Memory.insertCell rest a b

/-- Stores bytes at as many addresses, the lowest offset first. DESIGN CHOICE (notes/assumptions/26.md): where `Translate`
sends two bytes of one store to the same physical byte, the one of highest offset stays; 00_scope.md R15 and
20_memory.md R54 give the bytes of one access no order. -/
def Memory.store (m : Memory) : List Nat → List Byte → Memory
  | a :: addrs, b :: bs => (m.write a b).store addrs bs
  | _, _ => m

/-- The value of bytes, the first least significant (20_memory.md R60). -/
def littleEndian : List Byte → Qword
  | [] => 0
  | b :: bs => (littleEndian bs <<< 8) ||| b.setWidth 64

/-- The `n` low bytes of a value, the least significant first (R60). -/
def leBytes : Nat → Qword → List Byte
  | 0, _ => []
  | n + 1, v => v.extractLsb' 0 8 :: leBytes n (v >>> 8)

/-- Is an address in a range? -/
def Region.contains (r : Region) (a : Nat) : Bool := r.base ≤ a && a < r.base + r.size

/-- Is an address in one of the ranges? -/
def inRegions (rs : List Region) (a : Nat) : Bool := rs.any (·.contains a)

/-! ## The access procedure (20_memory.md R54 to R62) -/

/-- Who makes an access: the memory operand of an MMX instruction, or POP, PUSH and their relatives. The limit check
of real-address and virtual-8086 mode differs (R57). -/
inductive Requester where
  | mmx | integer
deriving DecidableEq, Repr

/-- The error code 0, or none in real-address mode (R57, 60_exceptions.md R366). -/
def State.zeroCode (s : State) : Option Dword :=
  match s.mode with
  | .real => none
  | .prot => some 0
  | .v86 => some 0

/-- `InLimit(h, off, n)` on integers without wrap-around (R55). -/
def inLimit (h : Hidden) (off : Dword) (n : Nat) : Bool :=
  if h.expdown && !h.code then
    h.limit.toNat < off.toNat && off.toNat + n - 1 ≤ (if h.db then 0xFFFFFFFF else 0xFFFF)
  else off.toNat + n - 1 ≤ h.limit.toNat

/-- The exception of a limit failure: `#SS` through SS, `#GP` through the others (R55, R57). -/
def limitExn (S : SReg) (s : State) : Exn :=
  if S = .ss then .ss s.zeroCode else .gp s.zeroCode

/-- Steps 1 to 3 of R54: null check, write check, limit check. Steps 1 and 2 are made in protected mode only. -/
def segmentCheck (who : Requester) (write : Bool) (S : SReg) (off : Dword) (n : Nat) (s : State) : Res Unit :=
  let h := (s.seg S).hid
  match s.mode with
  | .prot =>
    if h.null then .error (.raise (.gp (some 0)))
    else if write && (h.code || !h.writable) then .error (.raise (.gp (some 0)))
    else if !write && (h.code && !h.readable) then .error (.raise (.gp (some 0)))
    else if inLimit h off n then .ok ()
    else .error (.raise (limitExn S s))
  | .real | .v86 =>
    match who with
    | .mmx => if off.toNat + n - 1 ≤ 0xFFFF then .ok () else .error (.raise (.gp s.zeroCode))
    | .integer => if inLimit h off n then .ok () else .error (.raise (limitExn S s))

/-- The linear address of `S:off` (R51). -/
def State.linear (s : State) (S : SReg) (off : Dword) : Dword := (s.seg S).hid.base + off

/-- The page-fault error code as a doubleword: bits 0, 1 and 2 (R56). -/
def pageFaultWord (c : Config.PageFaultCode) : Dword :=
  (if c.present then 1 else 0) ||| (if c.write then 2 else 0) ||| (if c.user then 4 else 0)

/-- Step 4 of R54 for one byte: the identity in real-address mode, else `Translate`; the code of a page fault tells what
access it was (R56, 60_exceptions.md R367). -/
def translateByte (write : Bool) (s : State) (lin : Dword) : Res Nat :=
  match s.mode with
  | .real => .ok lin.toNat
  | .prot | .v86 =>
    match Config.translate s.mem lin write (s.cpl = 3) with
    | .phys p => .ok p
    | .pageFault present =>
      .error (.raise (.pf lin (pageFaultWord { present := present, write := write, user := s.cpl = 3 })))

/-- Step 4 of R54 for `n` bytes. The byte of lowest OFFSET comes first, and the first that faults is the one reported:
where the operand passes linear address 0xFFFFFFFF that is not the numerically lowest address, and the spec does not
say which of the two it means (DESIGN CHOICE, notes/assumptions/16.md). -/
def translateBytes (write : Bool) (s : State) : Dword → Nat → Res (List Nat)
  | _, 0 => .ok []
  | lin, n + 1 => do
    let p ← translateByte write s lin
    let ps ← translateBytes write s (lin + 1) n
    .ok (p :: ps)

/-- Step 5 of R54: the alignment check (R61). -/
def alignCheck (lin : Dword) (n : Nat) (s : State) : Res Unit :=
  if s.mode ≠ .real ∧ s.cpl = 3 ∧ s.cr0.am = true ∧ flagAC s.eflags = true ∧ lin.toNat % n ≠ 0 then
    .error (.raise .ac)
  else .ok ()

/-- The bytes of an access are inside the modelled memory (R50), and a store leaves the program text alone (R70). -/
def placeCheck (write : Bool) (s : State) (ps : List Nat) : Res Unit :=
  match ps.find? (fun p => !inRegions s.admitted p) with
  | some p => .error (.refuse (.outsideMemory p))
  | none =>
    match write, ps.find? (fun p => inRegions s.text p) with
    | true, some p => .error (.refuse (.storeIntoText p))
    | true, none => .ok ()
    | false, _ => .ok ()

/-- The access procedure up to the access itself (R54): the physical addresses of the `n` bytes at `S:off`, the lowest
offset first, or what stops the access. -/
def access (who : Requester) (write : Bool) (S : SReg) (off : Dword) (n : Nat) (s : State) : Res (List Nat) := do
  segmentCheck who write S off n s
  let ps ← translateBytes write s (s.linear S off) n
  alignCheck (s.linear S off) n s
  placeCheck write s ps
  .ok ps

/-- `MemRead(S:off, n)`, zero-extended to 64 bits (00_scope.md R15). -/
def memRead (who : Requester) (S : SReg) (off : Dword) (n : Nat) (s : State) : Res Qword := do
  let ps ← access who false S off n s
  .ok (littleEndian (ps.map s.mem.read))

/-- `MemWrite(S:off, n, v)` of the low `n` bytes of `v` (R15). Only POP, PUSH and their relatives write. -/
def memWrite (S : SReg) (off : Dword) (n : Nat) (v : Qword) (s : State) : Res State := do
  let ps ← access .integer true S off n s
  .ok (s.setMem (s.mem.store ps (leBytes n v)))

/-! ## The stack (45_pop.md R201, 49_push_pxor.md R321) -/

/-- `OperandSize / 8`. -/
def opBytes : OpSize → Nat
  | .w16 => 2
  | .w32 => 4

/-- Is `StackAddrSize` 32? It is the B flag of SS (10_state.md R44). -/
def State.stack32 (s : State) : Bool := (s.seg .ss).hid.db

/-- The stack pointer `SPreg` as an offset: ESP, or SP zero-extended (00_scope.md R17). -/
def State.sp (s : State) : Dword :=
  if s.stack32 then s.reg .esp else (s.reg16 .esp).setWidth 32

/-- Writes `SPreg`: ESP, or SP with ESP[31:16] unchanged (R201, R321). -/
def State.setSp (s : State) (v : Dword) : State :=
  if s.stack32 then s.setReg .esp v else s.setReg16 .esp (v.extractLsb' 0 16)

/-- `SPreg + n` as an offset, modulo 2^32 or 2^16 (R201). -/
def State.spPlus (s : State) (n : Nat) : Dword :=
  if s.stack32 then s.reg .esp + BitVec.ofNat 32 n
  else (s.reg16 .esp + BitVec.ofNat 16 n).setWidth 32

/-- `SPreg - n` as an offset, modulo 2^32 or 2^16 (R321). -/
def State.spMinus (s : State) (n : Nat) : Dword :=
  if s.stack32 then s.reg .esp - BitVec.ofNat 32 n
  else (s.reg16 .esp - BitVec.ofNat 16 n).setWidth 32

/-- `Pop(n)` (R201): the item, zero-extended to 32 bits, and the state with the stack pointer moved. -/
def pop (sz : OpSize) (s : State) : Res (Dword × State) := do
  let v ← memRead .integer .ss s.sp (opBytes sz) s
  .ok (v.setWidth 32, s.setSp (s.spPlus (opBytes sz)))

/-- `Push(v, n)` (R321): shutdown in real-address mode with SPreg = 1 (R327), else the store at the new stack
pointer and then the stack pointer. -/
def push (sz : OpSize) (v : Dword) (s : State) : Res State :=
  if s.mode = .real ∧ s.sp = 1 then .error .shutdown
  else do
    let t ← memWrite .ss (s.spMinus (opBytes sz)) (opBytes sz) (v.setWidth 64) s
    .ok (t.setSp (s.spMinus (opBytes sz)))

/-- Several pushes in order. -/
def pushList (sz : OpSize) : List Dword → State → Res State
  | [], s => .ok s
  | v :: vs, s => do
    let t ← push sz v s
    pushList sz vs t

/-- Pops into several registers in order. -/
def popRegs (sz : OpSize) : List Reg → State → Res State
  | [], s => .ok s
  | r :: rs, s => do
    let (v, t) ← pop sz s
    popRegs sz rs (t.setRegSz sz r v)

/-! ## Segment loads (45_pop.md R211 to R215) -/

/-- A null selector: `sel[15:2] = 0` (10_state.md R36). -/
def isNullSel (sel : Word) : Bool := sel.extractLsb' 2 14 = 0

/-- The RPL, bits 1:0 of a selector (R36). -/
def selRPL (sel : Word) : BitVec 2 := sel.extractLsb' 0 2

/-- The error code `(selector)`: the selector as popped, zero-extended (60_exceptions.md R366). -/
def selCode (sel : Word) : Dword := sel.setWidth 32

/-- A segment register loaded with a selector and a descriptor (R212, R213). -/
def loaded (sel : Word) (d : Descriptor) : Segment :=
  { sel := sel, hid := { toDescriptor := d, null := false } }

/-- R212: loading SS in protected mode, with `dd` the answer of `DescLookup`. -/
def loadStackSeg (dd : Config.DescLookup) (sel : Word) (s : State) : Res State :=
  if isNullSel sel then .error (.raise (.gp (some 0)))
  else
    match dd with
    | .outsideTable => .error (.raise (.gp (some (selCode sel))))
    | .notCodeOrData => .error (.raise (.gp (some (selCode sel))))
    | .found d =>
      if selRPL sel ≠ s.cpl ∨ d.code = true ∨ d.writable = false ∨ d.dpl ≠ s.cpl then
        .error (.raise (.gp (some (selCode sel))))
      else if d.present = false then .error (.raise (.ss (some (selCode sel))))
      else .ok (s.setSeg .ss (loaded sel d))

/-- R213 and R214: loading DS, ES, FS or GS in protected mode, with `dd` the answer of `DescLookup`. A null selector
consults no table; the other hidden fields then stay as they are (notes/assumptions/11.md). -/
def loadDataSeg (dd : Config.DescLookup) (S : SReg) (sel : Word) (s : State) : Res State :=
  if isNullSel sel then .ok (s.setSeg S { sel := sel, hid := { (s.seg S).hid with null := true } })
  else
    match dd with
    | .outsideTable => .error (.raise (.gp (some (selCode sel))))
    | .notCodeOrData => .error (.raise (.gp (some (selCode sel))))
    | .found d =>
      if (d.code = true ∧ d.readable = false) ∨
          ((d.code = false ∨ d.conforming = false) ∧ selRPL sel > d.dpl ∧ s.cpl > d.dpl) then
        .error (.raise (.gp (some (selCode sel))))
      else if d.present = false then .error (.raise (.np (selCode sel)))
      else .ok (s.setSeg S (loaded sel d))

/-- R215: the hidden part of a segment register loaded in real-address or virtual-8086 mode. -/
def realHidden (sel : Word) (h : Hidden) : Hidden := { h with base := sel.setWidth 32 * 16, null := false }

/-- R215: loading a segment register in real-address or virtual-8086 mode; no check. -/
def loadRealSeg (S : SReg) (sel : Word) (s : State) : State :=
  s.setSeg S { sel := sel, hid := realHidden sel (s.seg S).hid }

/-- `LoadSeg(S, sel)` (R211). -/
def loadSeg (S : SReg) (sel : Word) (s : State) : Res State :=
  match s.mode with
  | .prot =>
    match S with
    | .ss => loadStackSeg (Config.descLookup s.mem sel) sel s
    | .cs | .ds | .es | .fs | .gs => loadDataSeg (Config.descLookup s.mem sel) S sel s
  | .real | .v86 => .ok (loadRealSeg S sel s)

/-! ## Taking an exception, and completing an instruction -/

/-- Taking an exception (60_exceptions.md R362, 00_scope.md R16): the outcome carries the exception and the state before
the instruction, `pc` at the instruction, with `inhibit` cleared (10_state.md R38). Its delivery to a handler, and
a return from one, are not in the spec (00_scope.md R5(c), R376, R377). -/
def takeException (e : Exn) (s : State) : Out := .fault (.exception e { s with inhibit := false })

/-- The length of an instruction executed in this state (10_state.md R24, 30_encoding.md R81). -/
def State.lengthOf (s : State) (i : Instr) : Nat := i.length (s.seg .cs).hid.db

/-- An instruction that completed with the state `t`: `pc <- pc + L` modulo 2^32 (R24), and the interrupt
inhibit it leaves (R38). -/
def State.retire (s : State) (i : Instr) (inhibit : Bool) (t : State) : State :=
  { t with pc := s.pc + BitVec.ofNat 32 (s.lengthOf i), inhibit := inhibit }

/-- How an instruction started in `s` ends: completed, raised, shut down (R383: nothing but `shutdown` changes), or
without a meaning. -/
def settle (i : Instr) (inhibit : Bool) (s : State) (r : Res State) : Out :=
  match r with
  | .ok t => .next (s.retire i inhibit t)
  | .error (.raise e) => takeException e s
  | .error .shutdown => .next { s with shutdown := true }
  | .error (.refuse x) => .refused x

end Sys2Proof.Machine
end

