-- ==== Sys2Proof/Machine/Operands.lean ====
section
/-! DEFINITION. Operands: effective addresses and their segments (30_encoding.md R90 to R93, 20_memory.md R72), the
source of an MMX instruction and its availability checks (40_mmx_common.md R121, R122), the source of PUSH and
the destination of POP. -/

namespace Sys2Proof.Machine

/-! ## Effective addresses -/

/-- The registers of a 16-bit addressing form, summed modulo 2^16 (30_encoding.md R91). -/
def base16Value (s : State) : Base16 → Word
  | .bxsi => s.reg16 .ebx + s.reg16 .esi
  | .bxdi => s.reg16 .ebx + s.reg16 .edi
  | .bpsi => s.reg16 .ebp + s.reg16 .esi
  | .bpdi => s.reg16 .ebp + s.reg16 .edi
  | .si => s.reg16 .esi
  | .di => s.reg16 .edi
  | .bp => s.reg16 .ebp
  | .bx => s.reg16 .ebx

/-- A 16-bit displacement, disp8 sign-extended (R91). -/
def Disp16.value : Disp16 → Word
  | .none => 0
  | .d8 d => d.signExtend 16
  | .d16 d => d

/-- A 32-bit displacement, disp8 sign-extended (R90). -/
def Disp32.value : Disp32 → Dword
  | .none => 0
  | .d8 d => d.signExtend 32
  | .d32 d => d

/-- The scaled index of a SIB byte; index ESP is no index (R93). -/
def indexValue (s : State) (scale : BitVec 2) (index : Reg) : Dword :=
  match index with
  | .esp => 0
  | .eax | .ecx | .edx | .ebx | .ebp | .esi | .edi => s.reg index <<< scale.toNat

/-- The effective address of an addressing form (R90 to R93): modulo 2^32, or modulo 2^16 and zero-extended. -/
def effectiveAddr (s : State) : Addr → Dword
  | .a16 b d => (base16Value s b + Disp16.value d).setWidth 32
  | .abs16 o => o.setWidth 32
  | .a32 b d => s.reg b + Disp32.value d
  | .abs32 o => o
  | .sib b sc i d => s.reg b + indexValue s sc i + Disp32.value d
  | .sibNoBase sc i o => o + indexValue s sc i

/-- The default segment of an addressing form: SS when its base is BP, EBP or ESP, else DS (R90, R91, R93). -/
def defaultSeg : Addr → SReg
  | .a16 .bpsi _ => .ss
  | .a16 .bpdi _ => .ss
  | .a16 .bp _ => .ss
  | .a16 _ _ => .ds
  | .abs16 _ => .ds
  | .a32 .ebp _ => .ss
  | .a32 .esp _ => .ss
  | .a32 _ _ => .ds
  | .abs32 _ => .ds
  | .sib .ebp _ _ _ => .ss
  | .sib .esp _ _ _ => .ss
  | .sib _ _ _ _ => .ds
  | .sibNoBase _ _ _ => .ds

/-- The segment of a memory operand: the override, or the default (20_memory.md R72, 30_encoding.md R84). -/
def MemOp.segment (m : MemOp) : SReg :=
  match m.seg with
  | some S => S
  | none => defaultSeg m.addr

/-- Is ESP the base register of the addressing form? Only a SIB byte can make it so (R93). -/
def espBased : Addr → Bool
  | .sib .esp _ _ _ => true
  | .sib _ _ _ _ => false
  | .a16 _ _ => false
  | .abs16 _ => false
  | .a32 _ _ => false
  | .abs32 _ => false
  | .sibNoBase _ _ _ => false

/-! ## The source of an MMX instruction -/

/-- The second operand of an MMX row whose memory form reads `n` bytes (40_mmx_common.md R122). -/
def mmxOperand (src : MmSrc) (n : Nat) (s : State) : Res Qword :=
  match src with
  | .reg r => .ok (s.getMm r)
  | .mem m => memRead .mmx (MemOp.segment m) (effectiveAddr s m.addr) n s

/-- `#UD` before `#NM`: the two availability checks that precede everything (R121). -/
def mmxEnabled (s : State) : Res Unit :=
  if s.cr0.em then .error (.raise .ud)
  else if s.cr0.ts then .error (.raise .nm)
  else .ok ()

/-- The second operand after the availability checks (R121, R122). With a pending FPU exception the instruction
raises `#MF`, except that a memory operand that would raise may be reported instead, as `ExcChoice` decides
(60_exceptions.md R372 item 5). -/
def mmxSource (src : MmSrc) (n : Nat) (s : State) : Res Qword := do
  mmxEnabled s
  match s.fpuPending, mmxOperand src n s with
  | false, r => r
  | true, .error (.raise e) => .error (.raise (if Config.excChoice s then .mf else e))
  | true, .error .shutdown => .error (.raise .mf)
  | true, .error (.refuse _) => .error (.raise .mf)
  | true, .ok _ => .error (.raise .mf)

/-- The template of an MMX instruction whose result is `f d s` (R124). `i` is the instruction itself, for its length. -/
def mmxRun (i : Instr) (dst : MReg) (src : MmSrc) (n : Nat) (f : Qword → Qword → Qword) (s : State) : Out :=
  settle i false s (do
    let v ← mmxSource src n s
    .ok (s.setMm dst (f (s.getMm dst) v)))

/-- The template for a shift with an imm8 count: no memory operand (R124, 46_por_pshift.md R251). -/
def mmxRunImm (i : Instr) (dst : MReg) (count : Byte) (f : Qword → Nat → Qword) (s : State) : Out :=
  settle i false s (do
    mmxEnabled s
    if s.fpuPending then .error (.raise .mf)
    else .ok (s.setMm dst (f (s.getMm dst) count.toNat)))

/-! ## The source of PUSH and the destination of POP -/

/-- The operand `r/m16` or `r/m32` of PUSH: the effective address is computed before the stack pointer moves
(49_push_pxor.md R323). -/
def pushSource (sz : OpSize) (src : RmSrc) (s : State) : Res Dword :=
  match src with
  | .reg r => .ok (s.regSz sz r)
  | .mem m => do
    let v ← memRead .integer (MemOp.segment m) (effectiveAddr s m.addr) (opBytes sz) s
    .ok (v.setWidth 32)

/-- The case of 45_pop.md R206: a 16-bit stack pointer that wraps, and an operand addressed through ESP. -/
def popWraps (sz : OpSize) (m : MemOp) (s : State) : Bool :=
  !s.stack32 && espBased m.addr && decide (2 ^ 16 ≤ (s.reg16 .esp).toNat + opBytes sz)

/-- The offset that POP m writes: the effective address with the registers in force after the pop (R204, R205), or
the open location of R206. `s` is the state before the instruction, `t` the one after the pop. -/
def popDestOffset (sz : OpSize) (m : MemOp) (s t : State) : Dword :=
  if popWraps sz m s then Config.popWrapWriteLoc s m else effectiveAddr t m.addr

/-- The state after the write of POP m: a use of the open location is counted. -/
def popStore (sz : OpSize) (m : MemOp) (v : Dword) (s t : State) : Res State := do
  let u ← memWrite (MemOp.segment m) (popDestOffset sz m s t) (opBytes sz) (v.setWidth 64) t
  .ok (if popWraps sz m s then u.useFree else u)

end Sys2Proof.Machine
end

