-- ==== Sys2Proof/Machine/Logic.lean ====
section
/-! DEFINITION. PAND, PANDN, PCMPEQ*, PCMPGT* (43_pand_pcmp.md R170 to R177), POR (46_por_pshift.md R250) and PXOR
(49_push_pxor.md R350): results and meanings. -/

namespace Sys2Proof.Machine

/-! ## Results -/

/-- Bitwise AND (R170). -/
def pand (d s : Qword) : Qword := d &&& s

/-- The inverted destination AND the source (R171). -/
def pandn (d s : Qword) : Qword := ~~~d &&& s

/-- Bitwise OR (R250). -/
def por (d s : Qword) : Qword := d ||| s

/-- Bitwise exclusive OR (R350). -/
def pxor (d s : Qword) : Qword := d ^^^ s

/-- Equality of 8-bit elements: all ones or all zeros (R172). -/
def pcmpeqb (d s : Qword) : Qword :=
  mapBytes (fun a b => if a = b then BitVec.allOnes 8 else 0) d s

/-- Equality of 16-bit elements: all ones or all zeros (R173). -/
def pcmpeqw (d s : Qword) : Qword :=
  mapWords (fun a b => if a = b then BitVec.allOnes 16 else 0) d s

/-- Equality of 32-bit elements: all ones or all zeros (R174). -/
def pcmpeqd (d s : Qword) : Qword :=
  mapDwords (fun a b => if a = b then BitVec.allOnes 32 else 0) d s

/-- Signed `d > s` of 8-bit elements: all ones or all zeros (R175). -/
def pcmpgtb (d s : Qword) : Qword :=
  mapBytes (fun a b => if a.toInt > b.toInt then BitVec.allOnes 8 else 0) d s

/-- Signed `d > s` of 16-bit elements: all ones or all zeros (R176). -/
def pcmpgtw (d s : Qword) : Qword :=
  mapWords (fun a b => if a.toInt > b.toInt then BitVec.allOnes 16 else 0) d s

/-- Signed `d > s` of 32-bit elements: all ones or all zeros (R177). -/
def pcmpgtd (d s : Qword) : Qword :=
  mapDwords (fun a b => if a.toInt > b.toInt then BitVec.allOnes 32 else 0) d s

/-! ## Meanings -/

/-- PAND mm, mm/m64 (R170). -/
def execPand (dst : MReg) (src : MmSrc) (s : State) : Out :=
  mmxRun (.pand dst src) dst src 8 pand s

/-- PANDN mm, mm/m64 (R171). -/
def execPandn (dst : MReg) (src : MmSrc) (s : State) : Out :=
  mmxRun (.pandn dst src) dst src 8 pandn s

/-- POR mm, mm/m64 (R250). -/
def execPor (dst : MReg) (src : MmSrc) (s : State) : Out :=
  mmxRun (.por dst src) dst src 8 por s

/-- PXOR mm, mm/m64 (R350). -/
def execPxor (dst : MReg) (src : MmSrc) (s : State) : Out :=
  mmxRun (.pxor dst src) dst src 8 pxor s

/-- PCMPEQB mm, mm/m64 (R172). -/
def execPcmpeqb (dst : MReg) (src : MmSrc) (s : State) : Out :=
  mmxRun (.pcmpeqb dst src) dst src 8 pcmpeqb s

/-- PCMPEQW mm, mm/m64 (R173). -/
def execPcmpeqw (dst : MReg) (src : MmSrc) (s : State) : Out :=
  mmxRun (.pcmpeqw dst src) dst src 8 pcmpeqw s

/-- PCMPEQD mm, mm/m64 (R174). -/
def execPcmpeqd (dst : MReg) (src : MmSrc) (s : State) : Out :=
  mmxRun (.pcmpeqd dst src) dst src 8 pcmpeqd s

/-- PCMPGTB mm, mm/m64 (R175). -/
def execPcmpgtb (dst : MReg) (src : MmSrc) (s : State) : Out :=
  mmxRun (.pcmpgtb dst src) dst src 8 pcmpgtb s

/-- PCMPGTW mm, mm/m64 (R176). -/
def execPcmpgtw (dst : MReg) (src : MmSrc) (s : State) : Out :=
  mmxRun (.pcmpgtw dst src) dst src 8 pcmpgtw s

/-- PCMPGTD mm, mm/m64 (R177). -/
def execPcmpgtd (dst : MReg) (src : MmSrc) (s : State) : Out :=
  mmxRun (.pcmpgtd dst src) dst src 8 pcmpgtd s

end Sys2Proof.Machine
end

