-- ==== Sys2Proof/Machine/Pack.lean ====
section
/-! DEFINITION. PACKSSWB, PACKSSDW, PACKUSWB (41_pack.md R140 to R142): the results from the old destination `d` and the source `s`, and the
meanings. -/

namespace Sys2Proof.Machine

/-! ## Results -/

/-- Words to bytes with signed saturation: the destination gives the low half (R140). -/
def packsswb (d s : Qword) : Qword :=
  ofBytes fun k => satS8 (if k < 4 then wordLane d k else wordLane s (k - 4)).toInt

/-- Doublewords to words with signed saturation (R141). -/
def packssdw (d s : Qword) : Qword :=
  ofWords fun k => satS16 (if k < 2 then dwordLane d k else dwordLane s (k - 2)).toInt

/-- Signed words to bytes with unsigned saturation (R142). -/
def packuswb (d s : Qword) : Qword :=
  ofBytes fun k => satU8 (if k < 4 then wordLane d k else wordLane s (k - 4)).toInt

/-! ## Meanings -/

/-- PACKSSWB mm, mm/m64 (R140). -/
def execPacksswb (dst : MReg) (src : MmSrc) (s : State) : Out :=
  mmxRun (.packsswb dst src) dst src 8 packsswb s

/-- PACKSSDW mm, mm/m64 (R141). -/
def execPackssdw (dst : MReg) (src : MmSrc) (s : State) : Out :=
  mmxRun (.packssdw dst src) dst src 8 packssdw s

/-- PACKUSWB mm, mm/m64 (R142). -/
def execPackuswb (dst : MReg) (src : MmSrc) (s : State) : Out :=
  mmxRun (.packuswb dst src) dst src 8 packuswb s

end Sys2Proof.Machine
end

