-- ==== Sys2Proof/Machine/Padd.lean ====
section
/-! DEFINITION. PADDB, PADDW, PADDD, PADDSB, PADDSW, PADDUSB, PADDUSW (42_padd.md R150 to R157): results and meanings. -/

namespace Sys2Proof.Machine

/-! ## Results -/

/-- Sum of 8-bit elements, truncated (R150). -/
def paddb (d s : Qword) : Qword :=
  mapBytes (fun a b => BitVec.ofNat 8 (a.toNat + b.toNat)) d s

/-- Sum of 16-bit elements, truncated (R151). -/
def paddw (d s : Qword) : Qword :=
  mapWords (fun a b => BitVec.ofNat 16 (a.toNat + b.toNat)) d s

/-- Sum of 32-bit elements, truncated (R152). -/
def paddd (d s : Qword) : Qword :=
  mapDwords (fun a b => BitVec.ofNat 32 (a.toNat + b.toNat)) d s

/-- Sum of signed 8-bit elements, saturated (R153). -/
def paddsb (d s : Qword) : Qword :=
  mapBytes (fun a b => satS8 (a.toInt + b.toInt)) d s

/-- Sum of signed 16-bit elements, saturated (R154). -/
def paddsw (d s : Qword) : Qword :=
  mapWords (fun a b => satS16 (a.toInt + b.toInt)) d s

/-- Sum of unsigned 8-bit elements, saturated (R155). -/
def paddusb (d s : Qword) : Qword :=
  mapBytes (fun a b => satU8 ((a.toNat : Int) + (b.toNat : Int))) d s

/-- Sum of unsigned 16-bit elements, saturated (R156). -/
def paddusw (d s : Qword) : Qword :=
  mapWords (fun a b => satU16 ((a.toNat : Int) + (b.toNat : Int))) d s

/-! ## Meanings -/

/-- PADDB mm, mm/m64 (R150). -/
def execPaddb (dst : MReg) (src : MmSrc) (s : State) : Out :=
  mmxRun (.paddb dst src) dst src 8 paddb s

/-- PADDW mm, mm/m64 (R151). -/
def execPaddw (dst : MReg) (src : MmSrc) (s : State) : Out :=
  mmxRun (.paddw dst src) dst src 8 paddw s

/-- PADDD mm, mm/m64 (R152). -/
def execPaddd (dst : MReg) (src : MmSrc) (s : State) : Out :=
  mmxRun (.paddd dst src) dst src 8 paddd s

/-- PADDSB mm, mm/m64 (R153). -/
def execPaddsb (dst : MReg) (src : MmSrc) (s : State) : Out :=
  mmxRun (.paddsb dst src) dst src 8 paddsb s

/-- PADDSW mm, mm/m64 (R154). -/
def execPaddsw (dst : MReg) (src : MmSrc) (s : State) : Out :=
  mmxRun (.paddsw dst src) dst src 8 paddsw s

/-- PADDUSB mm, mm/m64 (R155). -/
def execPaddusb (dst : MReg) (src : MmSrc) (s : State) : Out :=
  mmxRun (.paddusb dst src) dst src 8 paddusb s

/-- PADDUSW mm, mm/m64 (R156). -/
def execPaddusw (dst : MReg) (src : MmSrc) (s : State) : Out :=
  mmxRun (.paddusw dst src) dst src 8 paddusw s

end Sys2Proof.Machine
end

