-- ==== Sys2Proof/Machine/Pmul.lean ====
section
/-! DEFINITION. PMADDWD, PMULHW, PMULLW (44_pmul.md R190 to R192): exact signed products, then the part that is kept. -/

namespace Sys2Proof.Machine

/-! ## Results -/

/-- The sum of two adjacent products, truncated to 32 bits (R190). -/
def pmaddwd (d s : Qword) : Qword :=
  ofDwords fun k =>
    BitVec.ofInt 32 ((wordLane d (2 * k)).toInt * (wordLane s (2 * k)).toInt +
      (wordLane d (2 * k + 1)).toInt * (wordLane s (2 * k + 1)).toInt)

/-- Bits 31:16 of the product (R191). -/
def pmulhw (d s : Qword) : Qword :=
  mapWords (fun a b => (BitVec.ofInt 32 (a.toInt * b.toInt)).extractLsb' 16 16) d s

/-- Bits 15:0 of the product (R192). -/
def pmullw (d s : Qword) : Qword :=
  mapWords (fun a b => BitVec.ofInt 16 (a.toInt * b.toInt)) d s

/-! ## Meanings -/

/-- PMADDWD mm, mm/m64 (R190). -/
def execPmaddwd (dst : MReg) (src : MmSrc) (s : State) : Out :=
  mmxRun (.pmaddwd dst src) dst src 8 pmaddwd s

/-- PMULHW mm, mm/m64 (R191). -/
def execPmulhw (dst : MReg) (src : MmSrc) (s : State) : Out :=
  mmxRun (.pmulhw dst src) dst src 8 pmulhw s

/-- PMULLW mm, mm/m64 (R192). -/
def execPmullw (dst : MReg) (src : MmSrc) (s : State) : Out :=
  mmxRun (.pmullw dst src) dst src 8 pmullw s

end Sys2Proof.Machine
end

