-- ==== Sys2Proof/Machine/Pop.lean ====
section
/-! DEFINITION. POP, POPA/POPAD, POPF/POPFD (45_pop.md R201 to R237). -/

namespace Sys2Proof.Machine

/-! ## Shared rules -/

/-- POP r (R202): the register write comes after the stack pointer has moved, so POP ESP ends with the popped value (R203). -/
def popReg (sz : OpSize) (r : Reg) (s : State) : Res State := do
  let (v, t) ← pop sz s
  .ok (t.setRegSz sz r v)

/-- POP m (R204 to R206): pop, then the effective address, then the write. -/
def popMem (sz : OpSize) (m : MemOp) (s : State) : Res State := do
  let (v, t) ← pop sz s
  popStore sz m v s t

/-- POP sreg (R210): bits 31:16 of a popped doubleword are ignored. -/
def popSeg (sz : OpSize) (S : SReg) (s : State) : Res State := do
  let (v, t) ← pop sz s
  loadSeg S (v.extractLsb' 0 16) t

/-- POP SS counts the use of `InhibitChain` when `inhibit` was already set (60_exceptions.md R381). -/
def popSsCount (s t : State) : State := if s.inhibit then t.useFree else t

/-- The `inhibit` that POP SS leaves (R210, R216, 60_exceptions.md R380, R381). -/
def popSsInhibit (s : State) : Bool := if s.inhibit then Config.inhibitChain s else true

/-- POPA and POPAD (R220): the slot of the stack pointer is skipped without an access. -/
def popAll (sz : OpSize) (s : State) : Res State := do
  let t ← popRegs sz [.edi, .esi, .ebp] s
  popRegs sz [.ebx, .edx, .ecx, .eax] (t.setSp (t.spPlus (opBytes sz)))

/-- POPF and POPFD (R230 to R235): the IOPL test of virtual-8086 mode precedes the stack access. -/
def popFlags (sz : OpSize) (s : State) : Res State :=
  if s.mode = .v86 ∧ flagIOPL s.eflags < 3 then .error (.raise (.gp (some 0)))
  else do
    let (v, t) ← pop sz s
    .ok (t.setFlags (popfFlags s.mode s.cpl sz s.eflags v))

/-! ## Meanings -/

/-- POP m16 (R204). -/
def execPopM16 (dst : MemOp) (s : State) : Out :=
  settle (.popM16 dst) false s (popMem .w16 dst s)

/-- POP m32 (R204). -/
def execPopM32 (dst : MemOp) (s : State) : Out :=
  settle (.popM32 dst) false s (popMem .w32 dst s)

/-- POP r16 (R202). -/
def execPopR16 (r : Reg) (s : State) : Out :=
  settle (.popR16 r) false s (popReg .w16 r s)

/-- POP r32 (R202). -/
def execPopR32 (r : Reg) (s : State) : Out :=
  settle (.popR32 r) false s (popReg .w32 r s)

/-- POP DS (R210). -/
def execPopDs (sz : OpSize) (s : State) : Out :=
  settle (.popDs sz) false s (popSeg sz .ds s)

/-- POP ES (R210). -/
def execPopEs (sz : OpSize) (s : State) : Out :=
  settle (.popEs sz) false s (popSeg sz .es s)

/-- POP SS (R210), which inhibits interrupts until after the next instruction (R216). -/
def execPopSs (sz : OpSize) (s : State) : Out :=
  settle (.popSs sz) (popSsInhibit s) s (do
    let t ← popSeg sz .ss s
    .ok (popSsCount s t))

/-- POP FS (R210). -/
def execPopFs (sz : OpSize) (s : State) : Out :=
  settle (.popFs sz) false s (popSeg sz .fs s)

/-- POP GS (R210). -/
def execPopGs (sz : OpSize) (s : State) : Out :=
  settle (.popGs sz) false s (popSeg sz .gs s)

/-- POPA (R220). -/
def execPopa (s : State) : Out :=
  settle .popa false s (popAll .w16 s)

/-- POPAD (R220). -/
def execPopad (s : State) : Out :=
  settle .popad false s (popAll .w32 s)

/-- POPF (R230). -/
def execPopf (s : State) : Out :=
  settle .popf false s (popFlags .w16 s)

/-- POPFD (R230). -/
def execPopfd (s : State) : Out :=
  settle .popfd false s (popFlags .w32 s)

end Sys2Proof.Machine
end

