-- ==== Sys2Proof/Machine/Pshift.lean ====
section
/-! DEFINITION. The packed shifts (46_por_pshift.md R251 to R260). The count is the whole second operand as an unsigned integer, never
reduced modulo the element width (R252). -/

namespace Sys2Proof.Machine

/-! ## Results -/

/-- Shift left of 16-bit elements (R253). -/
def psllw (d : Qword) (count : Nat) : Qword :=
  ofWords fun k => if count > 15 then 0 else BitVec.ofNat 16 ((wordLane d k).toNat * 2 ^ count)

/-- Shift left of 32-bit elements (R254). -/
def pslld (d : Qword) (count : Nat) : Qword :=
  ofDwords fun k => if count > 31 then 0 else BitVec.ofNat 32 ((dwordLane d k).toNat * 2 ^ count)

/-- Shift left of 64-bit elements (R255). -/
def psllq (d : Qword) (count : Nat) : Qword :=
  if count > 63 then 0 else BitVec.ofNat 64 (d.toNat * 2 ^ count)

/-- Arithmetic shift right (rounding toward minus infinity) of 16-bit elements (R256). -/
def psraw (d : Qword) (count : Nat) : Qword :=
  ofWords fun k => BitVec.ofInt 16 ((wordLane d k).toInt / 2 ^ min count 15)

/-- Arithmetic shift right (rounding toward minus infinity) of 32-bit elements (R257). -/
def psrad (d : Qword) (count : Nat) : Qword :=
  ofDwords fun k => BitVec.ofInt 32 ((dwordLane d k).toInt / 2 ^ min count 31)

/-- Logical shift right of 16-bit elements (R258). -/
def psrlw (d : Qword) (count : Nat) : Qword :=
  ofWords fun k => if count > 15 then 0 else BitVec.ofNat 16 ((wordLane d k).toNat / 2 ^ count)

/-- Logical shift right of 32-bit elements (R259). -/
def psrld (d : Qword) (count : Nat) : Qword :=
  ofDwords fun k => if count > 31 then 0 else BitVec.ofNat 32 ((dwordLane d k).toNat / 2 ^ count)

/-- Logical shift right of 64-bit elements (R260). -/
def psrlq (d : Qword) (count : Nat) : Qword :=
  if count > 63 then 0 else BitVec.ofNat 64 (d.toNat / 2 ^ count)

/-! ## Meanings -/

/-- PSLLW mm, mm/m64 (R253). -/
def execPsllw (dst : MReg) (src : MmSrc) (s : State) : Out :=
  mmxRun (.psllw dst src) dst src 8 (fun d v => psllw d v.toNat) s

/-- PSLLW mm, imm8 (R253). -/
def execPsllwImm (dst : MReg) (count : Byte) (s : State) : Out :=
  mmxRunImm (.psllwImm dst count) dst count psllw s

/-- PSLLD mm, mm/m64 (R254). -/
def execPslld (dst : MReg) (src : MmSrc) (s : State) : Out :=
  mmxRun (.pslld dst src) dst src 8 (fun d v => pslld d v.toNat) s

/-- PSLLD mm, imm8 (R254). -/
def execPslldImm (dst : MReg) (count : Byte) (s : State) : Out :=
  mmxRunImm (.pslldImm dst count) dst count pslld s

/-- PSLLQ mm, mm/m64 (R255). -/
def execPsllq (dst : MReg) (src : MmSrc) (s : State) : Out :=
  mmxRun (.psllq dst src) dst src 8 (fun d v => psllq d v.toNat) s

/-- PSLLQ mm, imm8 (R255). -/
def execPsllqImm (dst : MReg) (count : Byte) (s : State) : Out :=
  mmxRunImm (.psllqImm dst count) dst count psllq s

/-- PSRAW mm, mm/m64 (R256). -/
def execPsraw (dst : MReg) (src : MmSrc) (s : State) : Out :=
  mmxRun (.psraw dst src) dst src 8 (fun d v => psraw d v.toNat) s

/-- PSRAW mm, imm8 (R256). -/
def execPsrawImm (dst : MReg) (count : Byte) (s : State) : Out :=
  mmxRunImm (.psrawImm dst count) dst count psraw s

/-- PSRAD mm, mm/m64 (R257). -/
def execPsrad (dst : MReg) (src : MmSrc) (s : State) : Out :=
  mmxRun (.psrad dst src) dst src 8 (fun d v => psrad d v.toNat) s

/-- PSRAD mm, imm8 (R257). -/
def execPsradImm (dst : MReg) (count : Byte) (s : State) : Out :=
  mmxRunImm (.psradImm dst count) dst count psrad s

/-- PSRLW mm, mm/m64 (R258). -/
def execPsrlw (dst : MReg) (src : MmSrc) (s : State) : Out :=
  mmxRun (.psrlw dst src) dst src 8 (fun d v => psrlw d v.toNat) s

/-- PSRLW mm, imm8 (R258). -/
def execPsrlwImm (dst : MReg) (count : Byte) (s : State) : Out :=
  mmxRunImm (.psrlwImm dst count) dst count psrlw s

/-- PSRLD mm, mm/m64 (R259). -/
def execPsrld (dst : MReg) (src : MmSrc) (s : State) : Out :=
  mmxRun (.psrld dst src) dst src 8 (fun d v => psrld d v.toNat) s

/-- PSRLD mm, imm8 (R259). -/
def execPsrldImm (dst : MReg) (count : Byte) (s : State) : Out :=
  mmxRunImm (.psrldImm dst count) dst count psrld s

/-- PSRLQ mm, mm/m64 (R260). -/
def execPsrlq (dst : MReg) (src : MmSrc) (s : State) : Out :=
  mmxRun (.psrlq dst src) dst src 8 (fun d v => psrlq d v.toNat) s

/-- PSRLQ mm, imm8 (R260). -/
def execPsrlqImm (dst : MReg) (count : Byte) (s : State) : Out :=
  mmxRunImm (.psrlqImm dst count) dst count psrlq s

end Sys2Proof.Machine
end

