-- ==== Sys2Proof/Machine/Psub.lean ====
section
/-! DEFINITION. PSUBB, PSUBW, PSUBD, PSUBSB, PSUBSW, PSUBUSB, PSUBUSW (47_psub.md R280 to R287): the source is subtracted from the
destination. -/

namespace Sys2Proof.Machine

/-! ## Results -/

/-- Difference of 8-bit elements, truncated (R280). -/
def psubb (d s : Qword) : Qword :=
  mapBytes (fun a b => BitVec.ofInt 8 ((a.toNat : Int) - (b.toNat : Int))) d s

/-- Difference of 16-bit elements, truncated (R281). -/
def psubw (d s : Qword) : Qword :=
  mapWords (fun a b => BitVec.ofInt 16 ((a.toNat : Int) - (b.toNat : Int))) d s

/-- Difference of 32-bit elements, truncated (R282). -/
def psubd (d s : Qword) : Qword :=
  mapDwords (fun a b => BitVec.ofInt 32 ((a.toNat : Int) - (b.toNat : Int))) d s

/-- Difference of signed 8-bit elements, saturated (R283). -/
def psubsb (d s : Qword) : Qword :=
  mapBytes (fun a b => satS8 (a.toInt - b.toInt)) d s

/-- Difference of signed 16-bit elements, saturated (R284). -/
def psubsw (d s : Qword) : Qword :=
  mapWords (fun a b => satS16 (a.toInt - b.toInt)) d s

/-- Difference of unsigned 8-bit elements, saturated (R285). -/
def psubusb (d s : Qword) : Qword :=
  mapBytes (fun a b => satU8 ((a.toNat : Int) - (b.toNat : Int))) d s

/-- Difference of unsigned 16-bit elements, saturated (R286). -/
def psubusw (d s : Qword) : Qword :=
  mapWords (fun a b => satU16 ((a.toNat : Int) - (b.toNat : Int))) d s

/-! ## Meanings -/

/-- PSUBB mm, mm/m64 (R280). -/
def execPsubb (dst : MReg) (src : MmSrc) (s : State) : Out :=
  mmxRun (.psubb dst src) dst src 8 psubb s

/-- PSUBW mm, mm/m64 (R281). -/
def execPsubw (dst : MReg) (src : MmSrc) (s : State) : Out :=
  mmxRun (.psubw dst src) dst src 8 psubw s

/-- PSUBD mm, mm/m64 (R282). -/
def execPsubd (dst : MReg) (src : MmSrc) (s : State) : Out :=
  mmxRun (.psubd dst src) dst src 8 psubd s

/-- PSUBSB mm, mm/m64 (R283). -/
def execPsubsb (dst : MReg) (src : MmSrc) (s : State) : Out :=
  mmxRun (.psubsb dst src) dst src 8 psubsb s

/-- PSUBSW mm, mm/m64 (R284). -/
def execPsubsw (dst : MReg) (src : MmSrc) (s : State) : Out :=
  mmxRun (.psubsw dst src) dst src 8 psubsw s

/-- PSUBUSB mm, mm/m64 (R285). -/
def execPsubusb (dst : MReg) (src : MmSrc) (s : State) : Out :=
  mmxRun (.psubusb dst src) dst src 8 psubusb s

/-- PSUBUSW mm, mm/m64 (R286). -/
def execPsubusw (dst : MReg) (src : MmSrc) (s : State) : Out :=
  mmxRun (.psubusw dst src) dst src 8 psubusw s

end Sys2Proof.Machine
end

