-- ==== Sys2Proof/Machine/Punpck.lean ====
section
/-! DEFINITION. PUNPCKH* and PUNPCKL* (48_punpck.md R300 to R305). The low forms read 4 bytes of a memory source, the high forms 8. -/

namespace Sys2Proof.Machine

/-! ## Results -/

/-- Interleaves the high-order elements, the destination's below the source's (R300). -/
def punpckhbw (d s : Qword) : Qword :=
  ofBytes fun k => byteLane (if k % 2 = 0 then d else s) (4 + k / 2)

/-- Interleaves the high-order elements, the destination's below the source's (R301). -/
def punpckhwd (d s : Qword) : Qword :=
  ofWords fun k => wordLane (if k % 2 = 0 then d else s) (2 + k / 2)

/-- Interleaves the high-order elements, the destination's below the source's (R302). -/
def punpckhdq (d s : Qword) : Qword :=
  ofDwords fun k => dwordLane (if k = 0 then d else s) 1

/-- Interleaves the low-order elements, the destination's below the source's (R303). -/
def punpcklbw (d s : Qword) : Qword :=
  ofBytes fun k => byteLane (if k % 2 = 0 then d else s) (k / 2)

/-- Interleaves the low-order elements, the destination's below the source's (R304). -/
def punpcklwd (d s : Qword) : Qword :=
  ofWords fun k => wordLane (if k % 2 = 0 then d else s) (k / 2)

/-- Interleaves the low-order elements, the destination's below the source's (R305). -/
def punpckldq (d s : Qword) : Qword :=
  ofDwords fun k => dwordLane (if k = 0 then d else s) 0

/-! ## Meanings -/

/-- PUNPCKHBW mm, mm/m64 (R300). -/
def execPunpckhbw (dst : MReg) (src : MmSrc) (s : State) : Out :=
  mmxRun (.punpckhbw dst src) dst src 8 punpckhbw s

/-- PUNPCKHWD mm, mm/m64 (R301). -/
def execPunpckhwd (dst : MReg) (src : MmSrc) (s : State) : Out :=
  mmxRun (.punpckhwd dst src) dst src 8 punpckhwd s

/-- PUNPCKHDQ mm, mm/m64 (R302). -/
def execPunpckhdq (dst : MReg) (src : MmSrc) (s : State) : Out :=
  mmxRun (.punpckhdq dst src) dst src 8 punpckhdq s

/-- PUNPCKLBW mm, mm/m32 (R303). -/
def execPunpcklbw (dst : MReg) (src : MmSrc) (s : State) : Out :=
  mmxRun (.punpcklbw dst src) dst src 4 punpcklbw s

/-- PUNPCKLWD mm, mm/m32 (R304). -/
def execPunpcklwd (dst : MReg) (src : MmSrc) (s : State) : Out :=
  mmxRun (.punpcklwd dst src) dst src 4 punpcklwd s

/-- PUNPCKLDQ mm, mm/m32 (R305). -/
def execPunpckldq (dst : MReg) (src : MmSrc) (s : State) : Out :=
  mmxRun (.punpckldq dst src) dst src 4 punpckldq s

end Sys2Proof.Machine
end

