-- ==== Sys2Proof/Machine/Push.lean ====
section
/-! DEFINITION. PUSH, PUSHA/PUSHAD, PUSHF/PUSHFD (49_push_pxor.md R321 to R342). -/

namespace Sys2Proof.Machine

/-! ## Shared rules -/

/-- PUSH r/m (R323, R324): the operand is read before the stack pointer moves. -/
def pushRm (sz : OpSize) (src : RmSrc) (s : State) : Res State := do
  let v ← pushSource sz src s
  push sz v s

/-- An imm8 sign-extended (R325, 30_encoding.md R94); a 16-bit push stores its low 16 bits. -/
def imm8Value (ib : Byte) : Dword := ib.signExtend 32

/-- The value that PUSH sreg stores (R326): in the 32-bit form the upper 16 bits are the open `PushSregUpper`. -/
def pushSegValue (sz : OpSize) (S : SReg) (s : State) : Dword :=
  match sz with
  | .w16 => ((s.seg S).sel).setWidth 32
  | .w32 => Config.pushSregUpper s ++ (s.seg S).sel

/-- The 32-bit form of PUSH sreg uses a free value; its use is counted. -/
def pushSegCount (sz : OpSize) (t : State) : State :=
  match sz with
  | .w16 => t
  | .w32 => t.useFree

/-- PUSH sreg (R326). -/
def pushSeg (sz : OpSize) (S : SReg) (s : State) : Res State := do
  let t ← push sz (pushSegValue sz S s) s
  .ok (pushSegCount sz t)

/-- The test of the starting stack pointer of PUSHA and PUSHAD (R332). -/
def pushAllStart (s : State) : Res Unit :=
  let a := s.sp.toNat
  match s.mode with
  | .prot => .ok ()
  | .real =>
    if a = 1 ∨ a = 3 ∨ a = 5 then .error .shutdown
    else if a = 7 ∨ a = 9 ∨ a = 11 ∨ a = 13 ∨ a = 15 then .error (.raise (.gp none))
    else .ok ()
  | .v86 =>
    if a = 1 ∨ a = 3 ∨ a = 5 ∨ a = 7 ∨ a = 9 ∨ a = 11 ∨ a = 13 ∨ a = 15 then .error (.raise (.gp (some 0)))
    else .ok ()

/-- The order of the eight items of PUSHA and PUSHAD (R330). -/
def pushAllOrder : List Reg := [.eax, .ecx, .edx, .ebx, .esp, .ebp, .esi, .edi]

/-- PUSHA and PUSHAD (R330): every item is its value before the instruction, the stack pointer's too. -/
def pushAll (sz : OpSize) (s : State) : Res State := do
  pushAllStart s
  pushList sz (pushAllOrder.map (s.regSz sz)) s

/-- PUSHF and PUSHFD (R340): the IOPL test of virtual-8086 mode precedes the stack access. -/
def pushFlags (sz : OpSize) (s : State) : Res State :=
  if s.mode = .v86 ∧ flagIOPL s.eflags < 3 then .error (.raise (.gp (some 0)))
  else push sz (pushfImage sz s.eflags) s

/-! ## Meanings -/

/-- PUSH r/m16 (R323). -/
def execPushRm16 (src : RmSrc) (s : State) : Out :=
  settle (.pushRm16 src) false s (pushRm .w16 src s)

/-- PUSH r/m32 (R323). -/
def execPushRm32 (src : RmSrc) (s : State) : Out :=
  settle (.pushRm32 src) false s (pushRm .w32 src s)

/-- PUSH r16 (R322). -/
def execPushR16 (r : Reg) (s : State) : Out :=
  settle (.pushR16 r) false s (push .w16 (s.regSz .w16 r) s)

/-- PUSH r32 (R322). -/
def execPushR32 (r : Reg) (s : State) : Out :=
  settle (.pushR32 r) false s (push .w32 (s.regSz .w32 r) s)

/-- PUSH imm8 (R325). -/
def execPushImm8 (sz : OpSize) (imm : Byte) (s : State) : Out :=
  settle (.pushImm8 sz imm) false s (push sz (imm8Value imm) s)

/-- PUSH imm16 (R325). -/
def execPushImm16 (imm : Word) (s : State) : Out :=
  settle (.pushImm16 imm) false s (push .w16 (imm.setWidth 32) s)

/-- PUSH imm32 (R325). -/
def execPushImm32 (imm : Dword) (s : State) : Out :=
  settle (.pushImm32 imm) false s (push .w32 imm s)

/-- PUSH CS (R326). -/
def execPushCs (sz : OpSize) (s : State) : Out :=
  settle (.pushCs sz) false s (pushSeg sz .cs s)

/-- PUSH SS (R326). -/
def execPushSs (sz : OpSize) (s : State) : Out :=
  settle (.pushSs sz) false s (pushSeg sz .ss s)

/-- PUSH DS (R326). -/
def execPushDs (sz : OpSize) (s : State) : Out :=
  settle (.pushDs sz) false s (pushSeg sz .ds s)

/-- PUSH ES (R326). -/
def execPushEs (sz : OpSize) (s : State) : Out :=
  settle (.pushEs sz) false s (pushSeg sz .es s)

/-- PUSH FS (R326). -/
def execPushFs (sz : OpSize) (s : State) : Out :=
  settle (.pushFs sz) false s (pushSeg sz .fs s)

/-- PUSH GS (R326). -/
def execPushGs (sz : OpSize) (s : State) : Out :=
  settle (.pushGs sz) false s (pushSeg sz .gs s)

/-- PUSHA (R330). -/
def execPusha (s : State) : Out :=
  settle .pusha false s (pushAll .w16 s)

/-- PUSHAD (R330). -/
def execPushad (s : State) : Out :=
  settle .pushad false s (pushAll .w32 s)

/-- PUSHF (R340). -/
def execPushf (s : State) : Out :=
  settle .pushf false s (pushFlags .w16 s)

/-- PUSHFD (R340). -/
def execPushfd (s : State) : Out :=
  settle .pushfd false s (pushFlags .w32 s)

end Sys2Proof.Machine
end

