-- ==== Sys2Proof/Machine/Dispatch.lean ====
section
/-! DEFINITION. One arm per constructor of `Instr`. -/

namespace Sys2Proof.Machine

def exec (i : Instr) (s : State) : Host.Outcome State Fault Refusal :=
  match i with
  | .packsswb dst src => Sys2Proof.Machine.execPacksswb dst src s
  | .packssdw dst src => Sys2Proof.Machine.execPackssdw dst src s
  | .packuswb dst src => Sys2Proof.Machine.execPackuswb dst src s
  | .paddb dst src => Sys2Proof.Machine.execPaddb dst src s
  | .paddw dst src => Sys2Proof.Machine.execPaddw dst src s
  | .paddd dst src => Sys2Proof.Machine.execPaddd dst src s
  | .paddsb dst src => Sys2Proof.Machine.execPaddsb dst src s
  | .paddsw dst src => Sys2Proof.Machine.execPaddsw dst src s
  | .paddusb dst src => Sys2Proof.Machine.execPaddusb dst src s
  | .paddusw dst src => Sys2Proof.Machine.execPaddusw dst src s
  | .pand dst src => Sys2Proof.Machine.execPand dst src s
  | .pandn dst src => Sys2Proof.Machine.execPandn dst src s
  | .pcmpeqb dst src => Sys2Proof.Machine.execPcmpeqb dst src s
  | .pcmpeqw dst src => Sys2Proof.Machine.execPcmpeqw dst src s
  | .pcmpeqd dst src => Sys2Proof.Machine.execPcmpeqd dst src s
  | .pcmpgtb dst src => Sys2Proof.Machine.execPcmpgtb dst src s
  | .pcmpgtw dst src => Sys2Proof.Machine.execPcmpgtw dst src s
  | .pcmpgtd dst src => Sys2Proof.Machine.execPcmpgtd dst src s
  | .pmaddwd dst src => Sys2Proof.Machine.execPmaddwd dst src s
  | .pmulhw dst src => Sys2Proof.Machine.execPmulhw dst src s
  | .pmullw dst src => Sys2Proof.Machine.execPmullw dst src s
  | .por dst src => Sys2Proof.Machine.execPor dst src s
  | .psllw dst src => Sys2Proof.Machine.execPsllw dst src s
  | .psllwImm dst count => Sys2Proof.Machine.execPsllwImm dst count s
  | .pslld dst src => Sys2Proof.Machine.execPslld dst src s
  | .pslldImm dst count => Sys2Proof.Machine.execPslldImm dst count s
  | .psllq dst src => Sys2Proof.Machine.execPsllq dst src s
  | .psllqImm dst count => Sys2Proof.Machine.execPsllqImm dst count s
  | .psraw dst src => Sys2Proof.Machine.execPsraw dst src s
  | .psrawImm dst count => Sys2Proof.Machine.execPsrawImm dst count s
  | .psrad dst src => Sys2Proof.Machine.execPsrad dst src s
  | .psradImm dst count => Sys2Proof.Machine.execPsradImm dst count s
  | .psrlw dst src => Sys2Proof.Machine.execPsrlw dst src s
  | .psrlwImm dst count => Sys2Proof.Machine.execPsrlwImm dst count s
  | .psrld dst src => Sys2Proof.Machine.execPsrld dst src s
  | .psrldImm dst count => Sys2Proof.Machine.execPsrldImm dst count s
  | .psrlq dst src => Sys2Proof.Machine.execPsrlq dst src s
  | .psrlqImm dst count => Sys2Proof.Machine.execPsrlqImm dst count s
  | .psubb dst src => Sys2Proof.Machine.execPsubb dst src s
  | .psubw dst src => Sys2Proof.Machine.execPsubw dst src s
  | .psubd dst src => Sys2Proof.Machine.execPsubd dst src s
  | .psubsb dst src => Sys2Proof.Machine.execPsubsb dst src s
  | .psubsw dst src => Sys2Proof.Machine.execPsubsw dst src s
  | .psubusb dst src => Sys2Proof.Machine.execPsubusb dst src s
  | .psubusw dst src => Sys2Proof.Machine.execPsubusw dst src s
  | .punpckhbw dst src => Sys2Proof.Machine.execPunpckhbw dst src s
  | .punpckhwd dst src => Sys2Proof.Machine.execPunpckhwd dst src s
  | .punpckhdq dst src => Sys2Proof.Machine.execPunpckhdq dst src s
  | .punpcklbw dst src => Sys2Proof.Machine.execPunpcklbw dst src s
  | .punpcklwd dst src => Sys2Proof.Machine.execPunpcklwd dst src s
  | .punpckldq dst src => Sys2Proof.Machine.execPunpckldq dst src s
  | .pxor dst src => Sys2Proof.Machine.execPxor dst src s
  | .popM16 dst => Sys2Proof.Machine.execPopM16 dst s
  | .popM32 dst => Sys2Proof.Machine.execPopM32 dst s
  | .popR16 r => Sys2Proof.Machine.execPopR16 r s
  | .popR32 r => Sys2Proof.Machine.execPopR32 r s
  | .popDs sz => Sys2Proof.Machine.execPopDs sz s
  | .popEs sz => Sys2Proof.Machine.execPopEs sz s
  | .popSs sz => Sys2Proof.Machine.execPopSs sz s
  | .popFs sz => Sys2Proof.Machine.execPopFs sz s
  | .popGs sz => Sys2Proof.Machine.execPopGs sz s
  | .popa => Sys2Proof.Machine.execPopa s
  | .popad => Sys2Proof.Machine.execPopad s
  | .popf => Sys2Proof.Machine.execPopf s
  | .popfd => Sys2Proof.Machine.execPopfd s
  | .pushRm16 src => Sys2Proof.Machine.execPushRm16 src s
  | .pushRm32 src => Sys2Proof.Machine.execPushRm32 src s
  | .pushR16 r => Sys2Proof.Machine.execPushR16 r s
  | .pushR32 r => Sys2Proof.Machine.execPushR32 r s
  | .pushImm8 sz imm => Sys2Proof.Machine.execPushImm8 sz imm s
  | .pushImm16 imm => Sys2Proof.Machine.execPushImm16 imm s
  | .pushImm32 imm => Sys2Proof.Machine.execPushImm32 imm s
  | .pushCs sz => Sys2Proof.Machine.execPushCs sz s
  | .pushSs sz => Sys2Proof.Machine.execPushSs sz s
  | .pushDs sz => Sys2Proof.Machine.execPushDs sz s
  | .pushEs sz => Sys2Proof.Machine.execPushEs sz s
  | .pushFs sz => Sys2Proof.Machine.execPushFs sz s
  | .pushGs sz => Sys2Proof.Machine.execPushGs sz s
  | .pusha => Sys2Proof.Machine.execPusha s
  | .pushad => Sys2Proof.Machine.execPushad s
  | .pushf => Sys2Proof.Machine.execPushf s
  | .pushfd => Sys2Proof.Machine.execPushfd s

end Sys2Proof.Machine
end

