-- ==== Sys2Proof/Machine/Fetch.lean ====
section
/-! DEFINITION. Fetching an instruction at `CS:pc` (10_state.md R24, 20_memory.md R51), and the step built on it.
Fetch is no modelled access: it raises nothing (60_exceptions.md R367). A byte that has no place in the program
text ends the bytes that a fetch can give (notes/assumptions/4.md). -/

namespace Sys2Proof.Machine

/-- The physical address of the instruction byte at an offset in CS, if it has one. -/
def fetchPlace (s : State) (off : Dword) : Option Nat :=
  match translateByte false s (s.linear .cs off) with
  | .ok p => some p
  | .error _ => none

/-- The instruction byte at an offset in CS, if it is program text. -/
def fetchByte (s : State) (off : Dword) : Option Byte :=
  match fetchPlace s off with
  | some p => if inRegions s.text p then some (s.mem.read p) else none
  | none => none

/-- At most `n` instruction bytes from an offset on, ending before the first that is not program text. The offset of a
byte after 0xFFFFFFFF is 0, inside one instruction too: the spec settles `pc + L` alone and says nothing of such bytes
(N4 of 91_not_in_source.md; DESIGN CHOICE, unsafe, notes/assumptions/25.md). -/
def fetchFrom (s : State) : Dword → Nat → List Byte
  | _, 0 => []
  | off, n + 1 =>
    match fetchByte s off with
    | some b => b :: fetchFrom s (off + 1) n
    | none => []

/-- The bytes at `pc` that an instruction can take (30_encoding.md R81). -/
def fetch (s : State) : List Byte := fetchFrom s s.pc maxLength

/-- Decodes the bytes at `pc` in the default size of the code segment (10_state.md R43, R44). -/
def decodeAt (s : State) : Except DecodeError (Instr × List Byte) := decode (s.seg .cs).hid.db (fetch s)

/-- One step: no step after shutdown (60_exceptions.md R383); otherwise the decoded instruction, or a refusal of the
bytes (30_encoding.md R111) or of a fetch that is not wholly inside the text (10_state.md R24). -/
def stepState (s : State) : Out :=
  if s.shutdown then .fault .shutDown
  else
    match decodeAt s with
    | .ok (i, _) => exec i s
    | .error .truncated => .refused (.fetchOutsideText s.pc)
    | .error e => .refused (.encoding e)

/-- Loads a byte of program from outside the machine: the byte is stored and its address becomes program text. -/
def State.loadByte (s : State) (p : Nat) (b : Byte) : State :=
  { s with
    mem := s.mem.write p b
    text := if inRegions s.text p then s.text else s.text ++ [{ base := p, size := 1 }] }

/-- Loads bytes of program at offsets of CS, each where a fetch in the state `at0` finds it. -/
def State.loadCode (at0 : State) : Dword → List Byte → State → State
  | _, [], s => s
  | off, b :: bs, s =>
    match fetchPlace at0 off with
    | some p => State.loadCode at0 (off + 1) bs (s.loadByte p b)
    | none => s

end Sys2Proof.Machine
end

