-- ==== Sys2Proof/Machine/Step.lean ====
section
/-! DEFINITION. The step of the machine, and the load of one instruction where the next step fetches. -/

namespace Sys2Proof.Machine

/-- One step (60_exceptions.md R362). -/
def step (s : State) : Host.Outcome State Fault Refusal := stepState s

/-- The state with the instruction of a table number stored at `CS:pc` and marked as program text: the load of a program
from outside the machine (notes/assumptions/4.md). -/
def State.withFetchWord (s : State) (nbits w : Nat) : State := State.loadCode s s.pc (tableBytes nbits w) s

end Sys2Proof.Machine
end

