-- ==== Sys2Proof/Safety.lean ====
section
/-! DEFINITION. The terms in which claims speak of the machine: the launch invariant, the instruction groups that the
rules name, and what an instruction that completes leaves. -/

namespace Sys2Proof.Machine

/-- The part of the launch invariant of 70_reset_and_hazards.md R401 that every step keeps, a shutdown too, with the
canonical form of memory. `Launch` adds `shutdown = 0`. -/
structure Inv (s : State) : Prop where
  /-- The reserved bits of EFLAGS (10_state.md R27). -/
  reserved : reservedOk s.eflags = true
  /-- `CPL = 0` in real-address mode (10_state.md R41). -/
  cplReal : s.mode = .real → s.cpl = 0
  /-- `CPL = 3` in virtual-8086 mode (R41). -/
  cplV86 : s.mode = .v86 → s.cpl = 3
  /-- SS is never null. -/
  ssNotNull : (s.seg .ss).hid.null = false
  /-- CS is never null. -/
  csNotNull : (s.seg .cs).hid.null = false
  /-- Outside protected mode no segment register is null (45_pop.md R215). -/
  notNull : s.mode ≠ .prot → ∀ S, (s.seg S).hid.null = false
  /-- Memory is in canonical form. -/
  memWf : Memory.wf s.mem

/-- The whole launch invariant of R401: what a state that a run starts in must satisfy. -/
structure Launch (s : State) : Prop extends Inv s where
  /-- The processor has not shut down. -/
  running : s.shutdown = false

/-- The availability checks of every MMX instruction pass (40_mmx_common.md R121). -/
def mmxAvailable (s : State) : Bool := !s.cr0.em && !s.cr0.ts && !s.fpuPending

/-- The destination register of an MMX row; `none` for the 30 integer rows (00_scope.md R4). -/
def mmDest : Instr → Option MReg
  | .packsswb dst _ => some dst
  | .packssdw dst _ => some dst
  | .packuswb dst _ => some dst
  | .paddb dst _ => some dst
  | .paddw dst _ => some dst
  | .paddd dst _ => some dst
  | .paddsb dst _ => some dst
  | .paddsw dst _ => some dst
  | .paddusb dst _ => some dst
  | .paddusw dst _ => some dst
  | .pand dst _ => some dst
  | .pandn dst _ => some dst
  | .pcmpeqb dst _ => some dst
  | .pcmpeqw dst _ => some dst
  | .pcmpeqd dst _ => some dst
  | .pcmpgtb dst _ => some dst
  | .pcmpgtw dst _ => some dst
  | .pcmpgtd dst _ => some dst
  | .pmaddwd dst _ => some dst
  | .pmulhw dst _ => some dst
  | .pmullw dst _ => some dst
  | .por dst _ => some dst
  | .psllw dst _ => some dst
  | .psllwImm dst _ => some dst
  | .pslld dst _ => some dst
  | .pslldImm dst _ => some dst
  | .psllq dst _ => some dst
  | .psllqImm dst _ => some dst
  | .psraw dst _ => some dst
  | .psrawImm dst _ => some dst
  | .psrad dst _ => some dst
  | .psradImm dst _ => some dst
  | .psrlw dst _ => some dst
  | .psrlwImm dst _ => some dst
  | .psrld dst _ => some dst
  | .psrldImm dst _ => some dst
  | .psrlq dst _ => some dst
  | .psrlqImm dst _ => some dst
  | .psubb dst _ => some dst
  | .psubw dst _ => some dst
  | .psubd dst _ => some dst
  | .psubsb dst _ => some dst
  | .psubsw dst _ => some dst
  | .psubusb dst _ => some dst
  | .psubusw dst _ => some dst
  | .punpckhbw dst _ => some dst
  | .punpckhwd dst _ => some dst
  | .punpckhdq dst _ => some dst
  | .punpcklbw dst _ => some dst
  | .punpcklwd dst _ => some dst
  | .punpckldq dst _ => some dst
  | .pxor dst _ => some dst
  | .popM16 _ => none
  | .popM32 _ => none
  | .popR16 _ => none
  | .popR32 _ => none
  | .popDs _ => none
  | .popEs _ => none
  | .popSs _ => none
  | .popFs _ => none
  | .popGs _ => none
  | .popa => none
  | .popad => none
  | .popf => none
  | .popfd => none
  | .pushRm16 _ => none
  | .pushRm32 _ => none
  | .pushR16 _ => none
  | .pushR32 _ => none
  | .pushImm8 _ _ => none
  | .pushImm16 _ => none
  | .pushImm32 _ => none
  | .pushCs _ => none
  | .pushSs _ => none
  | .pushDs _ => none
  | .pushEs _ => none
  | .pushFs _ => none
  | .pushGs _ => none
  | .pusha => none
  | .pushad => none
  | .pushf => none
  | .pushfd => none

/-- The 52 MMX rows (R4). -/
def isMmx (i : Instr) : Bool := (mmDest i).isSome

/-- The memory operand in the second operand of an MMX row. -/
def MmSrc.memOp : MmSrc → Option MemOp
  | .reg _ => none
  | .mem m => some m

/-- The memory operand in the operand of PUSH r/m. -/
def RmSrc.memOp : RmSrc → Option MemOp
  | .reg _ => none
  | .mem m => some m

/-- The memory operand that an instruction names by a ModR/M byte (20_memory.md R72). -/
def memOperand : Instr → Option MemOp
  | .packsswb _ src => MmSrc.memOp src
  | .packssdw _ src => MmSrc.memOp src
  | .packuswb _ src => MmSrc.memOp src
  | .paddb _ src => MmSrc.memOp src
  | .paddw _ src => MmSrc.memOp src
  | .paddd _ src => MmSrc.memOp src
  | .paddsb _ src => MmSrc.memOp src
  | .paddsw _ src => MmSrc.memOp src
  | .paddusb _ src => MmSrc.memOp src
  | .paddusw _ src => MmSrc.memOp src
  | .pand _ src => MmSrc.memOp src
  | .pandn _ src => MmSrc.memOp src
  | .pcmpeqb _ src => MmSrc.memOp src
  | .pcmpeqw _ src => MmSrc.memOp src
  | .pcmpeqd _ src => MmSrc.memOp src
  | .pcmpgtb _ src => MmSrc.memOp src
  | .pcmpgtw _ src => MmSrc.memOp src
  | .pcmpgtd _ src => MmSrc.memOp src
  | .pmaddwd _ src => MmSrc.memOp src
  | .pmulhw _ src => MmSrc.memOp src
  | .pmullw _ src => MmSrc.memOp src
  | .por _ src => MmSrc.memOp src
  | .psllw _ src => MmSrc.memOp src
  | .psllwImm _ _ => none
  | .pslld _ src => MmSrc.memOp src
  | .pslldImm _ _ => none
  | .psllq _ src => MmSrc.memOp src
  | .psllqImm _ _ => none
  | .psraw _ src => MmSrc.memOp src
  | .psrawImm _ _ => none
  | .psrad _ src => MmSrc.memOp src
  | .psradImm _ _ => none
  | .psrlw _ src => MmSrc.memOp src
  | .psrlwImm _ _ => none
  | .psrld _ src => MmSrc.memOp src
  | .psrldImm _ _ => none
  | .psrlq _ src => MmSrc.memOp src
  | .psrlqImm _ _ => none
  | .psubb _ src => MmSrc.memOp src
  | .psubw _ src => MmSrc.memOp src
  | .psubd _ src => MmSrc.memOp src
  | .psubsb _ src => MmSrc.memOp src
  | .psubsw _ src => MmSrc.memOp src
  | .psubusb _ src => MmSrc.memOp src
  | .psubusw _ src => MmSrc.memOp src
  | .punpckhbw _ src => MmSrc.memOp src
  | .punpckhwd _ src => MmSrc.memOp src
  | .punpckhdq _ src => MmSrc.memOp src
  | .punpcklbw _ src => MmSrc.memOp src
  | .punpcklwd _ src => MmSrc.memOp src
  | .punpckldq _ src => MmSrc.memOp src
  | .pxor _ src => MmSrc.memOp src
  | .popM16 dst => some dst
  | .popM32 dst => some dst
  | .popR16 _ => none
  | .popR32 _ => none
  | .popDs _ => none
  | .popEs _ => none
  | .popSs _ => none
  | .popFs _ => none
  | .popGs _ => none
  | .popa => none
  | .popad => none
  | .popf => none
  | .popfd => none
  | .pushRm16 src => RmSrc.memOp src
  | .pushRm32 src => RmSrc.memOp src
  | .pushR16 _ => none
  | .pushR32 _ => none
  | .pushImm8 _ _ => none
  | .pushImm16 _ => none
  | .pushImm32 _ => none
  | .pushCs _ => none
  | .pushSs _ => none
  | .pushDs _ => none
  | .pushEs _ => none
  | .pushFs _ => none
  | .pushGs _ => none
  | .pusha => none
  | .pushad => none
  | .pushf => none
  | .pushfd => none

/-- The displacement of a 16-bit addressing form as an integer, disp8 signed (30_encoding.md R91). -/
def disp16Int : Disp16 → Int
  | .none => 0
  | .d8 d => d.toInt
  | .d16 d => d.toNat

/-- The displacement of a 32-bit addressing form as an integer, disp8 signed (30_encoding.md R90). -/
def disp32Int : Disp32 → Int
  | .none => 0
  | .d8 d => d.toInt
  | .d32 d => d.toNat

/-! ## What an instruction that completes leaves -/

/-- An MMX row `mk` whose memory operand has `n` bytes: when it is available and its operand is `v`, it completes with a
result `r` in its destination register and changes nothing else but `pc` and `inhibit` (40_mmx_common.md R124);
`P` relates the old destination, the operand and the result. -/
def MmxResult (mk : MReg → MmSrc → Instr) (n : Nat) (P : Qword → Qword → Qword → Prop) : Prop :=
  ∀ (dst : MReg) (src : MmSrc) (s : State) (v : Qword), mmxAvailable s = true → mmxOperand src n s = .ok v →
    ∃ r, exec (mk dst src) s = .next (s.retire (mk dst src) false (s.setMm dst r)) ∧ P (s.getMm dst) v r

/-- A shift row `mk` with an imm8 count: when it is available it completes, likewise; `P` relates the old destination, the
count and the result (46_por_pshift.md R251). -/
def MmxImmResult (mk : MReg → Byte → Instr) (P : Qword → Nat → Qword → Prop) : Prop :=
  ∀ (dst : MReg) (ib : Byte) (s : State), mmxAvailable s = true →
    ∃ r, exec (mk dst ib) s = .next (s.retire (mk dst ib) false (s.setMm dst r)) ∧ P (s.getMm dst) ib.toNat r

/-- ESP after the stack pointer has moved up by `n`: on a 16-bit stack SP moves modulo 2^16 and ESP[31:16] stays
(45_pop.md R201). -/
def espPlus (s : State) (n : Nat) : Dword :=
  if s.stack32 then s.reg .esp + BitVec.ofNat 32 n
  else (s.reg .esp).extractLsb' 16 16 ++ (s.reg16 .esp + BitVec.ofNat 16 n)

/-- ESP after the stack pointer has moved down by `n` (49_push_pxor.md R321). -/
def espMinus (s : State) (n : Nat) : Dword :=
  if s.stack32 then s.reg .esp - BitVec.ofNat 32 n
  else (s.reg .esp).extractLsb' 16 16 ++ (s.reg16 .esp - BitVec.ofNat 16 n)

/-- `t` is the state after `i` completed in `s`, but for the general registers and memory: everything else is as before,
`pc` is past the instruction, and `inhibit` is clear (10_state.md R24, R38). -/
def RestKept (i : Instr) (s t : State) : Prop :=
  t = { s with regs := t.regs, mem := t.mem, pc := s.pc + BitVec.ofNat 32 (s.lengthOf i), inhibit := false }

/-- A push of `n = opBytes sz` bytes can be made: no shutdown (49_push_pxor.md R327), and the store at the new top of the
stack is admitted, at the physical addresses `ps` (R321). -/
def CanPush (sz : OpSize) (s : State) (ps : List Nat) : Prop :=
  ¬(s.mode = .real ∧ s.sp = 1) ∧ access .integer true .ss (s.spMinus (opBytes sz)) (opBytes sz) s = .ok ps

/-- A push of `opBytes sz` bytes raises `e`: no shutdown, and the store at the new top of the stack raises (R321). -/
def PushRaises (sz : OpSize) (s : State) (e : Exn) : Prop :=
  ¬(s.mode = .real ∧ s.sp = 1) ∧
    access .integer true .ss (s.spMinus (opBytes sz)) (opBytes sz) s = .error (.raise e)

/-- `t` is the state after `i` completed in `s` by one push of `v` at the physical addresses `ps`, having used `free` free
values: the stack pointer moved, the bytes stored, and every other register and byte of memory as before. -/
structure Pushed (i : Instr) (sz : OpSize) (v : Dword) (free : Nat) (s : State) (ps : List Nat) (t : State) : Prop where
  rest : t = { s with
    regs := t.regs, mem := t.mem, pc := s.pc + BitVec.ofNat 32 (s.lengthOf i), inhibit := false,
    freeCount := s.freeCount + free }
  esp : t.reg .esp = espMinus s (opBytes sz)
  others : ∀ r, r ≠ .esp → t.reg r = s.reg r
  stored : ps.Nodup → ps.map t.mem.read = leBytes (opBytes sz) (v.setWidth 64)
  kept : ∀ a, a ∉ ps → t.mem.read a = s.mem.read a

/-- `i` in `s` ends with the exception `e`, and leaves the state of before with `inhibit` clear (60_exceptions.md R362). -/
def Raises (i : Instr) (s : State) (e : Exn) : Prop := exec i s = .fault (.exception e { s with inhibit := false })

/-- `i` in `s` shuts the processor down and changes nothing else (60_exceptions.md R383). -/
def ShutsDown (i : Instr) (s : State) : Prop := exec i s = .next { s with shutdown := true }

end Sys2Proof.Machine
end

