-- ==== Sys2Proof/Certificates/Slice0/Obligations.lean ====
section
/-! DEFINITION. The statements for the provers. Each docstring names the rules of spec/ that the statement formalises. -/

open Sys2Proof Sys2Proof.Machine

/-! ## Encoding and decoding -/

/-- R80 to R100: the decoder reads back every well-formed instruction that the encoder wrote, in a code segment of either
default size and whatever bytes follow. -/
def Obligations.DecodeReadsWhatEncodeWrote : Prop :=
  ∀ (db : Bool) (i : Instr) (rest : List Byte), i.wf = true → decode db (encode db i ++ rest) = .ok (i, rest)

/-- R81, R111: whatever the decoder accepts is a well-formed instruction, and the bytes it consumes are as many as the
length of that instruction. -/
def Obligations.DecodedLengthIsConsumedBytes : Prop :=
  ∀ (db : Bool) (bs rest : List Byte) (i : Instr), decode db bs = .ok (i, rest) →
    i.wf = true ∧ ∃ used, bs = used ++ rest ∧ used.length = i.length db

/-- Words of the encoding tables and of the worked decodings of 95_test_vectors.md 2.8, at least one of each of the ten
formats of R95. The addressing forms are the spec's, from general knowledge (G9). -/
def Obligations.WrittenWordsDecode : Prop :=
  decode true [0x0F, 0xFD, 0x4D, 0xF8] = .ok (.paddw .mm1 (.mem ⟨none, .a32 .ebp (.d8 0xF8)⟩), []) ∧
  decode true [0x0F, 0xD5, 0x04, 0x8B] = .ok (.pmullw .mm0 (.mem ⟨none, .sib .ebx 2 .ecx .none⟩), []) ∧
  decode true [0x67, 0x0F, 0xF5, 0x07] = .ok (.pmaddwd .mm0 (.mem ⟨none, .a16 .bx .none⟩), []) ∧
  decode true [0x26, 0x0F, 0xDB, 0x0E] = .ok (.pand .mm1 (.mem ⟨some .es, .a32 .esi .none⟩), []) ∧
  decode true [0x0F, 0x72, 0xE2, 0x1F] = .ok (.psradImm .mm2 0x1F, []) ∧
  decode true [0x66, 0xFF, 0x73, 0x02] = .ok (.pushRm16 (.mem ⟨none, .a32 .ebx (.d8 2)⟩), []) ∧
  decode true [0x8F, 0x04, 0x24] = .ok (.popM32 ⟨none, .sib .esp 0 .esp .none⟩, []) ∧
  decode true [0x68, 0x78, 0x56, 0x34, 0x12] = .ok (.pushImm32 0x12345678, []) ∧
  decode false [0x68, 0x34, 0x12, 0x78, 0x56] = .ok (.pushImm16 0x1234, [0x78, 0x56]) ∧
  decode true [0x66, 0x61] = .ok (.popa, []) ∧
  decode true [0x0F, 0x60, 0x03] = .ok (.punpcklbw .mm0 (.mem ⟨none, .a32 .ebx .none⟩), []) ∧
  decode true [0x5C] = .ok (.popR32 .esp, []) ∧
  decode true [0x66, 0x6A, 0x80] = .ok (.pushImm8 .w16 0x80, []) ∧
  decode true [0x0F, 0xA9] = .ok (.popGs .w32, [])

/-- R83, R85: the prefixes of an instruction that decodes. No LOCK or REP; no 0x66 before an MMX opcode; 0x67 and a
segment override only with a memory operand; none twice; and the segment override is the one that the operand records.
The admitted prefixes are the spec's decision D13, not the source's words. -/
def Obligations.OnlyAdmittedPrefixesDecode : Prop :=
  ∀ (db : Bool) (bs rest : List Byte) (i : Instr), decode db bs = .ok (i, rest) →
    let ps := bs.takeWhile fun b => (prefixKind b).isSome
    (∀ b ∈ ps, prefixKind b ≠ some .lockOrRep) ∧
    (isMmx i = true → (0x66 : Byte) ∉ ps) ∧
    (memOperand i = none → ∀ b ∈ ps, b = 0x66) ∧
    ps.Nodup ∧
    (∀ m, memOperand i = some m → ∀ S, m.seg = some S ↔ S.overrideByte ∈ ps)

/-- R110: in the groups 0F 71, 0F 72 and 0F 73 a digit without a row, and any digit with a memory form, is refused. The
refusal is the spec's decision D24. -/
def Obligations.ShiftGroupsWithoutRowRefused : Prop :=
  ∀ (db : Bool) (op m : Byte) (rest : List Byte), op = 0x71 ∨ op = 0x72 ∨ op = 0x73 →
    (modField m ≠ 3 ∨ regField m ∈ [0, 1, 3, 5, 7] ∨ (op = 0x73 ∧ regField m = 4)) →
    decode db (0x0F :: op :: m :: rest) = .error (.noGroupRow op m)

/-! ## The step -/

/-- Where the bytes at `pc` decode to an instruction, and the processor is not shut down, the step is the meaning of
that instruction: nothing is added around it, for `pc` and `inhibit` are updated inside the meaning (R24, R362). That an
exception is an outcome of the step is the spec's decision D2. -/
def Obligations.StepRunsDecodedInstruction : Prop :=
  ∀ (s : State) (i : Instr) (rest : List Byte), s.shutdown = false →
    decode (s.seg .cs).hid.db (fetch s) = .ok (i, rest) → step s = exec i s

/-- R111, R24: bytes that are no in-scope encoding are refused, and so is a fetch that leaves the program text; a
shut-down processor has no step (R383). These are the spec's decisions D13, D16 and D17. -/
def Obligations.StepRefusesWhatDoesNotDecode : Prop :=
  ∀ (s : State),
    (s.shutdown = true → step s = .fault .shutDown) ∧
    (s.shutdown = false → decode (s.seg .cs).hid.db (fetch s) = .error .truncated →
      step s = .refused (.fetchOutsideText s.pc)) ∧
    (s.shutdown = false → ∀ e, e ≠ .truncated → decode (s.seg .cs).hid.db (fetch s) = .error e →
      step s = .refused (.encoding e))

/-- R401 and the canonical form of memory: the launch invariant holds of every state that a step reaches from a state in
which it holds, unless the step is a shutdown, which happens in real-address mode, sets `shutdown` and changes nothing
else; all of the invariant but `shutdown = 0` holds then too. The values of the reserved bits and of CPL outside
protected mode are the spec's decisions D21 and D30; the canonical form is the model's (notes/assumptions/2.md). -/
def Obligations.LaunchInvariantKept : Prop :=
  ∀ (s t : State), step s = .next t →
    (Inv s → Inv t) ∧ (Launch s → Launch t ∨ (s.mode = .real ∧ t = { s with shutdown := true }))

/-- The state after reset meets the launch invariant. Its values are the model's choice (notes/assumptions/1.md). -/
def Obligations.ResetMeetsLaunchInvariant : Prop := Launch State.reset

/-- R387: no step changes the mode or the privilege level, CR0 or CS; nor the pending FPU exception (R39), nor the two
parts of the launch state that no instruction reaches. -/
def Obligations.ModeAndLevelConstant : Prop :=
  ∀ (s t : State), step s = .next t →
    t.mode = s.mode ∧ t.cpl = s.cpl ∧ t.cr0 = s.cr0 ∧ t.seg .cs = s.seg .cs ∧ t.fpuPending = s.fpuPending ∧
      t.admitted = s.admitted ∧ t.text = s.text

/-- R28: of all instructions only POPF and POPFD write EFLAGS; and those never change VM or a reserved bit (R27). -/
def Obligations.OnlyPopfWritesFlags : Prop :=
  ∀ (i : Instr) (s t : State), exec i s = .next t →
    (i ≠ .popf → i ≠ .popfd → t.eflags = s.eflags) ∧
      flagVM t.eflags = flagVM s.eflags ∧ t.eflags &&& reservedMask = s.eflags &&& reservedMask

/-- R24: an instruction that completes moves `pc` past itself and in no other way. (The one next state in which it does
not complete is a shutdown, which leaves `pc` alone: R383.) The program counter is the spec's decision D16. -/
def Obligations.CompletedInstructionAdvancesPc : Prop :=
  ∀ (i : Instr) (s t : State), s.shutdown = false → exec i s = .next t →
    t.pc = if t.shutdown then s.pc else s.pc + BitVec.ofNat 32 (i.length (s.seg .cs).hid.db)

/-- R38, R381: POP SS leaves `inhibit` set, or `InhibitChain` when it was set already; every other instruction that
completes clears it, and so does an exception. `InhibitChain` is open (notes/assumptions/10.md). -/
def Obligations.InhibitAfterPopSsAlone : Prop :=
  ∀ (i : Instr) (s : State),
    (∀ t, exec i s = .next t → t.shutdown = false →
      t.inhibit = match i with
        | .popSs _ => if s.inhibit then Config.inhibitChain s else true
        | _ => false) ∧
    ∀ e after, exec i s = .fault (.exception e after) → after.inhibit = false

/-- R16, R362: an instruction that raises an exception has no other effect. The state it carries is the one before, `pc`
at the instruction, with `inhibit` clear. That an exception has no other effect is the spec's decision D2. -/
def Obligations.ExceptionUndoesInstruction : Prop :=
  ∀ (i : Instr) (s : State) (f : Fault), exec i s = .fault f → ∃ e, f = .exception e { s with inhibit := false }

/-- R70: no step changes a byte of the program text; a store that would is refused. The refusal is the spec's decision
D18. -/
def Obligations.ProgramTextNeverStoredInto : Prop :=
  (∀ (s t : State) (p : Nat), step s = .next t → inRegions s.text p = true → t.mem.read p = s.mem.read p) ∧
  ∀ (s : State) (ps : List Nat), (∀ p ∈ ps, inRegions s.admitted p = true) → (∃ p ∈ ps, inRegions s.text p = true) →
    ∃ q ∈ ps, placeCheck true s ps = .error (.refuse (.storeIntoText q))

/-! ## Which exceptions, and their codes -/

/-- R366, R361, R367: in real-address mode the exceptions are #UD, #NM, #MF, and #SS and #GP without a code; in
virtual-8086 mode #SS and #GP have the code 0 and there is no #NP; in protected mode #SS and #GP have a code. An access
whose segment checks pass and one of whose bytes does not translate raises #PF. A page fault of an access carries the
address of the first byte that faults and a code of three bits, of which bit 1 says that the access was a write and bit
2 that it was made at CPL 3. The code 0 of virtual-8086 mode is the choice of 90_conflicts.md C20, the layout of the
page-fault code the spec's, from general knowledge (G12), and that the first byte is the one of lowest offset is the
model's choice (notes/assumptions/16.md). -/
def Obligations.ErrorCodesByMode : Prop :=
  (∀ (i : Instr) (s after : State) (e : Exn), exec i s = .fault (.exception e after) →
    match s.mode with
    | .real => e = .ud ∨ e = .nm ∨ e = .mf ∨ e = .ss none ∨ e = .gp none
    | .v86 => e = .ud ∨ e = .nm ∨ e = .mf ∨ e = .ss (some 0) ∨ e = .gp (some 0) ∨ e = .ac ∨ ∃ a c, e = .pf a c
    | .prot => e ≠ .ss none ∧ e ≠ .gp none) ∧
  (∀ (who : Requester) (write : Bool) (S : SReg) (off : Dword) (n k : Nat) (s : State) (e : Stop),
    segmentCheck who write S off n s = .ok () → k < n →
    (∀ j, j < k → ∃ p, translateByte write s (s.linear S off + BitVec.ofNat 32 j) = .ok p) →
    translateByte write s (s.linear S off + BitVec.ofNat 32 k) = .error e →
    access who write S off n s = .error e ∧ ∃ c, e = .raise (.pf (s.linear S off + BitVec.ofNat 32 k) c)) ∧
  ∀ (who : Requester) (write : Bool) (S : SReg) (off : Dword) (n : Nat) (s : State) (a c : Dword),
    access who write S off n s = .error (.raise (.pf a c)) →
      s.mode ≠ .real ∧ c.toNat < 8 ∧ c.getLsbD 1 = write ∧ c.getLsbD 2 = decide (s.cpl = 3) ∧
      ∃ k, k < n ∧ a = s.linear S off + BitVec.ofNat 32 k ∧
        (∃ e, translateByte write s a = .error e) ∧
        ∀ j, j < k → ∃ p, translateByte write s (s.linear S off + BitVec.ofNat 32 j) = .ok p

/-- R361: #UD, #NM and #MF come from MMX instructions alone; #NP from a POP into DS, ES, FS or GS in protected mode alone; an
MMX instruction without a memory operand raises #UD, #NM or #MF only. -/
def Obligations.WhoRaisesWhichException : Prop :=
  ∀ (i : Instr) (s after : State) (e : Exn), exec i s = .fault (.exception e after) →
    (e = .ud ∨ e = .nm ∨ e = .mf → isMmx i = true) ∧
    (∀ c, e = .np c → s.mode = .prot ∧ ∃ sz, i = .popDs sz ∨ i = .popEs sz ∨ i = .popFs sz ∨ i = .popGs sz) ∧
    (isMmx i = true → memOperand i = none → e = .ud ∨ e = .nm ∨ e = .mf)

/-- R121, R122, R123: every MMX instruction in every mode raises #UD when CR0.EM is set, else #NM when CR0.TS is set,
else #MF when an FPU exception is pending; where its operand would raise too, the latter may be reported instead, if
`ExcChoice` says so. The order of the three is the spec's decision D3. Where the three pass, an exception of the read of
the memory operand, of 4 bytes or of 8, is the one raised. That #MF is raised also where the operand lies outside the
modelled memory is the model's inference (notes/assumptions/17.md). -/
def Obligations.MmxAvailabilityChecks : Prop :=
  ∀ (i : Instr) (s : State), isMmx i = true →
    (s.cr0.em = true → Raises i s .ud) ∧
    (s.cr0.em = false → s.cr0.ts = true → Raises i s .nm) ∧
    (s.cr0.em = false → s.cr0.ts = false → s.fpuPending = true →
      Raises i s .mf ∨
        (Config.excChoice s = false ∧ ∃ e, Raises i s e ∧ Raises i { s with fpuPending := false } e)) ∧
    (mmxAvailable s = true → ∀ m e, memOperand i = some m →
      let n := match i with
        | .punpcklbw _ _ => 4
        | .punpcklwd _ _ => 4
        | .punpckldq _ _ => 4
        | _ => 8
      memRead .mmx (MemOp.segment m) (effectiveAddr s m.addr) n s = .error (.raise e) → Raises i s e)

/-! ## Frame of the MMX instructions -/

/-- R124, R23, R28: an MMX instruction that completes writes its destination register, `pc` and `inhibit`, and nothing else:
no other MMX register, general register, flag, segment register or byte of memory. No other instruction writes an MMX
register. -/
def Obligations.MmxWritesDestinationAlone : Prop :=
  (∀ (i : Instr) (dst : MReg) (s t : State), mmDest i = some dst → exec i s = .next t →
    t = { s with mm := t.mm, pc := s.pc + BitVec.ofNat 32 (s.lengthOf i), inhibit := false } ∧
      (∀ r, r ≠ dst → t.getMm r = s.getMm r) ∧ (∀ r, t.reg r = s.reg r) ∧ ∀ a, t.mem.read a = s.mem.read a) ∧
  ∀ (i : Instr) (s t : State), mmDest i = none → exec i s = .next t → ∀ r, t.getMm r = s.getMm r

/-! ## MMX results -/

/-- R140, R141, R142: packing saturates each signed element; the destination gives the low half of the result. -/
def Obligations.PackSaturatesEachElement : Prop :=
  (mmxRow 0x63 = some .packsswb ∧ MmxResult .packsswb 8 fun d v r => ∀ k, k < 4 →
    (byteLane r k).toInt = max (-128) (min 127 (wordLane d k).toInt) ∧
    (byteLane r (k + 4)).toInt = max (-128) (min 127 (wordLane v k).toInt)) ∧
  (mmxRow 0x6B = some .packssdw ∧ MmxResult .packssdw 8 fun d v r => ∀ k, k < 2 →
    (wordLane r k).toInt = max (-32768) (min 32767 (dwordLane d k).toInt) ∧
    (wordLane r (k + 2)).toInt = max (-32768) (min 32767 (dwordLane v k).toInt)) ∧
  (mmxRow 0x67 = some .packuswb ∧ MmxResult .packuswb 8 fun d v r => ∀ k, k < 4 →
    ((byteLane r k).toNat : Int) = max 0 (min 255 (wordLane d k).toInt) ∧
    ((byteLane r (k + 4)).toNat : Int) = max 0 (min 255 (wordLane v k).toInt))

/-- R150, R151, R152: each sum wraps around in its own element. -/
def Obligations.PaddWrapsEachElement : Prop :=
  (mmxRow 0xFC = some .paddb ∧ MmxResult .paddb 8 fun d v r => ∀ k, k < 8 →
    (byteLane r k).toNat = ((byteLane d k).toNat + (byteLane v k).toNat) % 2 ^ 8) ∧
  (mmxRow 0xFD = some .paddw ∧ MmxResult .paddw 8 fun d v r => ∀ k, k < 4 →
    (wordLane r k).toNat = ((wordLane d k).toNat + (wordLane v k).toNat) % 2 ^ 16) ∧
  (mmxRow 0xFE = some .paddd ∧ MmxResult .paddd 8 fun d v r => ∀ k, k < 2 →
    (dwordLane r k).toNat = ((dwordLane d k).toNat + (dwordLane v k).toNat) % 2 ^ 32)

/-- R153 to R156: each signed or unsigned sum saturates in its own element. -/
def Obligations.PaddSaturatesEachElement : Prop :=
  (mmxRow 0xEC = some .paddsb ∧ MmxResult .paddsb 8 fun d v r => ∀ k, k < 8 →
    (byteLane r k).toInt = max (-128) (min 127 ((byteLane d k).toInt + (byteLane v k).toInt))) ∧
  (mmxRow 0xED = some .paddsw ∧ MmxResult .paddsw 8 fun d v r => ∀ k, k < 4 →
    (wordLane r k).toInt = max (-32768) (min 32767 ((wordLane d k).toInt + (wordLane v k).toInt))) ∧
  (mmxRow 0xDC = some .paddusb ∧ MmxResult .paddusb 8 fun d v r => ∀ k, k < 8 →
    (byteLane r k).toNat = min 255 ((byteLane d k).toNat + (byteLane v k).toNat)) ∧
  (mmxRow 0xDD = some .paddusw ∧ MmxResult .paddusw 8 fun d v r => ∀ k, k < 4 →
    (wordLane r k).toNat = min 65535 ((wordLane d k).toNat + (wordLane v k).toNat))

/-- R280, R281, R282: each difference, destination minus source, wraps around in its own element. -/
def Obligations.PsubWrapsEachElement : Prop :=
  (mmxRow 0xF8 = some .psubb ∧ MmxResult .psubb 8 fun d v r => ∀ k, k < 8 →
    ((byteLane r k).toNat : Int) = (((byteLane d k).toNat : Int) - (byteLane v k).toNat) % 2 ^ 8) ∧
  (mmxRow 0xF9 = some .psubw ∧ MmxResult .psubw 8 fun d v r => ∀ k, k < 4 →
    ((wordLane r k).toNat : Int) = (((wordLane d k).toNat : Int) - (wordLane v k).toNat) % 2 ^ 16) ∧
  (mmxRow 0xFA = some .psubd ∧ MmxResult .psubd 8 fun d v r => ∀ k, k < 2 →
    ((dwordLane r k).toNat : Int) = (((dwordLane d k).toNat : Int) - (dwordLane v k).toNat) % 2 ^ 32)

/-- R283 to R286: each signed difference saturates in its own element; an unsigned one is 0 where it would be negative
(subtraction of `Nat` is cut off at 0). -/
def Obligations.PsubSaturatesEachElement : Prop :=
  (mmxRow 0xE8 = some .psubsb ∧ MmxResult .psubsb 8 fun d v r => ∀ k, k < 8 →
    (byteLane r k).toInt = max (-128) (min 127 ((byteLane d k).toInt - (byteLane v k).toInt))) ∧
  (mmxRow 0xE9 = some .psubsw ∧ MmxResult .psubsw 8 fun d v r => ∀ k, k < 4 →
    (wordLane r k).toInt = max (-32768) (min 32767 ((wordLane d k).toInt - (wordLane v k).toInt))) ∧
  (mmxRow 0xD8 = some .psubusb ∧ MmxResult .psubusb 8 fun d v r => ∀ k, k < 8 →
    (byteLane r k).toNat = (byteLane d k).toNat - (byteLane v k).toNat) ∧
  (mmxRow 0xD9 = some .psubusw ∧ MmxResult .psubusw 8 fun d v r => ∀ k, k < 4 →
    (wordLane r k).toNat = (wordLane d k).toNat - (wordLane v k).toNat)

/-- R170, R171, R250, R350: the four bitwise instructions, bit by bit; and PAND and PXOR of a register with itself are still
subject to the availability checks. -/
def Obligations.BitwiseInstructions : Prop :=
  (mmxRow 0xDB = some .pand ∧ MmxResult .pand 8 fun d v r => ∀ k, k < 64 →
    r.getLsbD k = (d.getLsbD k && v.getLsbD k)) ∧
  (mmxRow 0xDF = some .pandn ∧ MmxResult .pandn 8 fun d v r => ∀ k, k < 64 →
    r.getLsbD k = (!d.getLsbD k && v.getLsbD k)) ∧
  (mmxRow 0xEB = some .por ∧ MmxResult .por 8 fun d v r => ∀ k, k < 64 →
    r.getLsbD k = (d.getLsbD k || v.getLsbD k)) ∧
  (mmxRow 0xEF = some .pxor ∧ MmxResult .pxor 8 fun d v r => ∀ k, k < 64 →
    r.getLsbD k = (d.getLsbD k != v.getLsbD k)) ∧
  (∀ (m : MReg) (s t : State), mmxAvailable s = false →
    exec (.pand m (.reg m)) s ≠ .next t ∧ exec (.pxor m (.reg m)) s ≠ .next t)

/-- R172 to R177: an element becomes all ones where the two are equal, or where the destination's is the greater as a signed
number; else all zeros. -/
def Obligations.CompareMasks : Prop :=
  (mmxRow 0x74 = some .pcmpeqb ∧ MmxResult .pcmpeqb 8 fun d v r => ∀ k, k < 8 →
    byteLane r k = if byteLane d k = byteLane v k then 0xFF else 0x00) ∧
  (mmxRow 0x75 = some .pcmpeqw ∧ MmxResult .pcmpeqw 8 fun d v r => ∀ k, k < 4 →
    wordLane r k = if wordLane d k = wordLane v k then 0xFFFF else 0x0000) ∧
  (mmxRow 0x76 = some .pcmpeqd ∧ MmxResult .pcmpeqd 8 fun d v r => ∀ k, k < 2 →
    dwordLane r k = if dwordLane d k = dwordLane v k then 0xFFFFFFFF else 0x00000000) ∧
  (mmxRow 0x64 = some .pcmpgtb ∧ MmxResult .pcmpgtb 8 fun d v r => ∀ k, k < 8 →
    byteLane r k = if (byteLane d k).toInt > (byteLane v k).toInt then 0xFF else 0x00) ∧
  (mmxRow 0x65 = some .pcmpgtw ∧ MmxResult .pcmpgtw 8 fun d v r => ∀ k, k < 4 →
    wordLane r k = if (wordLane d k).toInt > (wordLane v k).toInt then 0xFFFF else 0x0000) ∧
  (mmxRow 0x66 = some .pcmpgtd ∧ MmxResult .pcmpgtd 8 fun d v r => ∀ k, k < 2 →
    dwordLane r k = if (dwordLane d k).toInt > (dwordLane v k).toInt then 0xFFFFFFFF else 0x00000000)

/-- R190, R191, R192: the sum of two adjacent signed products, and the high and the low word of a signed product. -/
def Obligations.MultiplyResults : Prop :=
  (mmxRow 0xF5 = some .pmaddwd ∧ MmxResult .pmaddwd 8 fun d v r => ∀ k, k < 2 →
    ((dwordLane r k).toNat : Int) =
      ((wordLane d (2 * k)).toInt * (wordLane v (2 * k)).toInt +
        (wordLane d (2 * k + 1)).toInt * (wordLane v (2 * k + 1)).toInt) % 2 ^ 32) ∧
  (mmxRow 0xE5 = some .pmulhw ∧ MmxResult .pmulhw 8 fun d v r => ∀ k, k < 4 →
    (wordLane r k).toInt = (wordLane d k).toInt * (wordLane v k).toInt / 2 ^ 16) ∧
  (mmxRow 0xD5 = some .pmullw ∧ MmxResult .pmullw 8 fun d v r => ∀ k, k < 4 →
    ((wordLane r k).toNat : Int) = ((wordLane d k).toInt * (wordLane v k).toInt) % 2 ^ 16)

/-- R253, R254, R255: left shifts by a count that is never reduced modulo the width, in both forms. -/
def Obligations.ShiftLeftLogical : Prop :=
  let W := fun (d : Qword) (c : Nat) (r : Qword) => ∀ k, k < 4 →
    (wordLane r k).toNat = if c > 15 then 0 else (wordLane d k).toNat * 2 ^ c % 2 ^ 16
  let D := fun (d : Qword) (c : Nat) (r : Qword) => ∀ k, k < 2 →
    (dwordLane r k).toNat = if c > 31 then 0 else (dwordLane d k).toNat * 2 ^ c % 2 ^ 32
  let Q := fun (d : Qword) (c : Nat) (r : Qword) => r.toNat = if c > 63 then 0 else d.toNat * 2 ^ c % 2 ^ 64
  (mmxRow 0xF1 = some .psllw ∧ MmxResult .psllw 8 fun d v r => W d v.toNat r) ∧
  (mmxShiftRow 0x71 6 = some .psllwImm ∧ MmxImmResult .psllwImm W) ∧
  (mmxRow 0xF2 = some .pslld ∧ MmxResult .pslld 8 fun d v r => D d v.toNat r) ∧
  (mmxShiftRow 0x72 6 = some .pslldImm ∧ MmxImmResult .pslldImm D) ∧
  (mmxRow 0xF3 = some .psllq ∧ MmxResult .psllq 8 fun d v r => Q d v.toNat r) ∧
  (mmxShiftRow 0x73 6 = some .psllqImm ∧ MmxImmResult .psllqImm Q)

/-- R256, R257: arithmetic right shifts round toward minus infinity; a count above the width less 1 leaves the sign; there
is none of the quadword. -/
def Obligations.ShiftRightArithmetic : Prop :=
  let W := fun (d : Qword) (c : Nat) (r : Qword) => ∀ k, k < 4 →
    (wordLane r k).toInt = (wordLane d k).toInt / 2 ^ min c 15 ∧
    (c > 15 → wordLane r k = if (wordLane d k).toInt < 0 then 0xFFFF else 0x0000)
  let D := fun (d : Qword) (c : Nat) (r : Qword) => ∀ k, k < 2 →
    (dwordLane r k).toInt = (dwordLane d k).toInt / 2 ^ min c 31 ∧
    (c > 31 → dwordLane r k = if (dwordLane d k).toInt < 0 then 0xFFFFFFFF else 0x00000000)
  (mmxRow 0xE1 = some .psraw ∧ MmxResult .psraw 8 fun d v r => W d v.toNat r) ∧
  (mmxShiftRow 0x71 4 = some .psrawImm ∧ MmxImmResult .psrawImm W) ∧
  (mmxRow 0xE2 = some .psrad ∧ MmxResult .psrad 8 fun d v r => D d v.toNat r) ∧
  (mmxShiftRow 0x72 4 = some .psradImm ∧ MmxImmResult .psradImm D) ∧
  mmxShiftRow 0x73 4 = none

/-- R258, R259, R260: logical right shifts by a count that is never reduced modulo the width, in both forms. -/
def Obligations.ShiftRightLogical : Prop :=
  let W := fun (d : Qword) (c : Nat) (r : Qword) => ∀ k, k < 4 →
    (wordLane r k).toNat = if c > 15 then 0 else (wordLane d k).toNat / 2 ^ c
  let D := fun (d : Qword) (c : Nat) (r : Qword) => ∀ k, k < 2 →
    (dwordLane r k).toNat = if c > 31 then 0 else (dwordLane d k).toNat / 2 ^ c
  let Q := fun (d : Qword) (c : Nat) (r : Qword) => r.toNat = if c > 63 then 0 else d.toNat / 2 ^ c
  (mmxRow 0xD1 = some .psrlw ∧ MmxResult .psrlw 8 fun d v r => W d v.toNat r) ∧
  (mmxShiftRow 0x71 2 = some .psrlwImm ∧ MmxImmResult .psrlwImm W) ∧
  (mmxRow 0xD2 = some .psrld ∧ MmxResult .psrld 8 fun d v r => D d v.toNat r) ∧
  (mmxShiftRow 0x72 2 = some .psrldImm ∧ MmxImmResult .psrldImm D) ∧
  (mmxRow 0xD3 = some .psrlq ∧ MmxResult .psrlq 8 fun d v r => Q d v.toNat r) ∧
  (mmxShiftRow 0x73 2 = some .psrlqImm ∧ MmxImmResult .psrlqImm Q)

/-- R300 to R305: the high-order or the low-order elements are interleaved, the destination's below the source's. A memory
source of the low forms has 4 bytes, of the high forms 8. -/
def Obligations.UnpackInterleaves : Prop :=
  (mmxRow 0x68 = some .punpckhbw ∧ MmxResult .punpckhbw 8 fun d v r => ∀ k, k < 4 →
    byteLane r (2 * k) = byteLane d (4 + k) ∧ byteLane r (2 * k + 1) = byteLane v (4 + k)) ∧
  (mmxRow 0x69 = some .punpckhwd ∧ MmxResult .punpckhwd 8 fun d v r => ∀ k, k < 2 →
    wordLane r (2 * k) = wordLane d (2 + k) ∧ wordLane r (2 * k + 1) = wordLane v (2 + k)) ∧
  (mmxRow 0x6A = some .punpckhdq ∧ MmxResult .punpckhdq 8 fun d v r =>
    dwordLane r 0 = dwordLane d 1 ∧ dwordLane r 1 = dwordLane v 1) ∧
  (mmxRow 0x60 = some .punpcklbw ∧ MmxResult .punpcklbw 4 fun d v r => ∀ k, k < 4 →
    byteLane r (2 * k) = byteLane d k ∧ byteLane r (2 * k + 1) = byteLane v k) ∧
  (mmxRow 0x61 = some .punpcklwd ∧ MmxResult .punpcklwd 4 fun d v r => ∀ k, k < 2 →
    wordLane r (2 * k) = wordLane d k ∧ wordLane r (2 * k + 1) = wordLane v k) ∧
  (mmxRow 0x62 = some .punpckldq ∧ MmxResult .punpckldq 4 fun d v r =>
    dwordLane r 0 = dwordLane d 0 ∧ dwordLane r 1 = dwordLane v 0)

/-- R126: with one register as source and destination the result follows from its value before the instruction. -/
def Obligations.SameRegisterSourceAndDestination : Prop :=
  ∀ (m : MReg) (s : State), mmxAvailable s = true →
    let out := fun (mk : MReg → MmSrc → Instr) (r : Qword) =>
      exec (mk m (.reg m)) s = .next (s.retire (mk m (.reg m)) false (s.setMm m r))
    out .pxor 0 ∧ out .psubb 0 ∧ out .psubw 0 ∧ out .psubd 0 ∧ out .psubsb 0 ∧ out .psubsw 0 ∧ out .psubusb 0 ∧
    out .psubusw 0 ∧ out .pandn 0 ∧ out .pcmpeqb (BitVec.allOnes 64) ∧ out .pcmpeqw (BitVec.allOnes 64) ∧
    out .pcmpeqd (BitVec.allOnes 64) ∧ out .pcmpgtb 0 ∧ out .pcmpgtw 0 ∧ out .pcmpgtd 0 ∧ out .pand (s.getMm m) ∧
    out .por (s.getMm m) ∧ out .psllw (psllw (s.getMm m) (s.getMm m).toNat)

/-- R306: unpacking high is unpacking low of the upper halves, and packing undoes unpacking against zero. -/
def Obligations.UnpackAndPackRelations : Prop :=
  ∀ (d v : Qword),
    punpckhbw d v = punpcklbw (d >>> 32) (v >>> 32) ∧ punpckhwd d v = punpcklwd (d >>> 32) (v >>> 32) ∧
    punpckhdq d v = punpckldq (d >>> 32) (v >>> 32) ∧ packuswb (punpcklbw d 0) (punpckhbw d 0) = d

/-! ## The access procedure -/

/-- R59: in protected mode no access through a segment register marked null is made: it raises #GP(0), an access of POP
m like any other. So does every available MMX instruction and every PUSH that names such an operand; for MMX
instructions that is the spec's own addition (R123), an inference from a quoted sentence. -/
def Obligations.NullSegmentRaisesGp : Prop :=
  (∀ (who : Requester) (write : Bool) (S : SReg) (off : Dword) (n : Nat) (s : State), s.mode = .prot →
    (s.seg S).hid.null = true → access who write S off n s = .error (.raise (.gp (some 0)))) ∧
  ∀ (i : Instr) (m : MemOp) (s : State), s.mode = .prot → memOperand i = some m →
    (s.seg (MemOp.segment m)).hid.null = true → (isMmx i = true ∧ mmxAvailable s = true) ∨
      (∃ src, i = .pushRm16 src ∨ i = .pushRm32 src) → Raises i s (.gp (some 0))

/-- R54 steps 2 and 3, R55: in protected mode a write to a segment that is not writable or is a code segment, and a read
through a code segment that is not readable, raise #GP(0), whatever the limit. The limit check that follows is about
every byte of the operand, its offset counted without wrap-around; and a failure is #SS(0) through SS, #GP(0) through
the others. The check of reads is the spec's, from general knowledge (G14), the order is its decision D3, and what
"outside the limit" means is its decision D20. That the expand-down test is for data segments alone is the model's
inference (notes/assumptions/15.md). -/
def Obligations.LimitCheckOfProtectedMode : Prop :=
  (∀ (h : Hidden) (off : Dword) (n : Nat), 0 < n →
    (inLimit h off n = true ↔ ∀ k, k < n →
      if h.expdown = true ∧ h.code = false then
        h.limit.toNat < off.toNat + k ∧ off.toNat + k ≤ (if h.db then 0xFFFFFFFF else 0xFFFF)
      else off.toNat + k ≤ h.limit.toNat)) ∧
  ∀ (who : Requester) (write : Bool) (S : SReg) (off : Dword) (n : Nat) (s : State), s.mode = .prot →
    (s.seg S).hid.null = false →
    let denied := (write = true ∧ ((s.seg S).hid.code = true ∨ (s.seg S).hid.writable = false)) ∨
      (write = false ∧ (s.seg S).hid.code = true ∧ (s.seg S).hid.readable = false)
    (denied → access who write S off n s = .error (.raise (.gp (some 0)))) ∧
    (¬denied → inLimit (s.seg S).hid off n = false →
      access who write S off n s = .error (.raise (if S = .ss then .ss (some 0) else .gp (some 0))))

/-- R57: the limit checks of real-address and virtual-8086 mode. A memory operand of an MMX instruction is bounded by
offset 0xFFFF and raises #GP through any segment; an access of POP or PUSH is bounded by the limit that the hidden part
holds and raises #SS through SS, #GP through the others; the code is none in real-address mode and 0 in the other. An
access that fails its check stops with that exception. The code 0 is the choice of 90_conflicts.md C20, the #SS of POP
in these modes is supplied by the spec (N23), and `inLimit` is its decision D20, but for code segments
(notes/assumptions/15.md). -/
def Obligations.LimitCheckOutsideProtectedMode : Prop :=
  ∀ (write : Bool) (S : SReg) (off : Dword) (n : Nat) (s : State), s.mode ≠ .prot → 0 < n →
    let code := if s.mode = .real then none else some (0 : Dword)
    segmentCheck .mmx write S off n s =
      (if ∃ k, k < n ∧ 0xFFFF < off.toNat + k then .error (.raise (.gp code)) else .ok ()) ∧
    segmentCheck .integer write S off n s =
      (if inLimit (s.seg S).hid off n = true then .ok ()
       else .error (.raise (if S = .ss then .ss code else .gp code))) ∧
    ∀ (who : Requester) (e : Stop), segmentCheck who write S off n s = .error e → access who write S off n s = .error e

/-- R61: the alignment check raises exactly outside real-address mode, at CPL 3, with CR0.AM and EFLAGS.AC set and a
linear address that is no multiple of the size. Every access makes it, and it is the last check: where it is the one
reported, the segment checks and the translation of every byte passed, and where those pass and it raises, the access
raises (R54, R368). When the check is enabled, and that it is last, are the spec's decisions D15 and D3. -/
def Obligations.AlignmentCheckIsLast : Prop :=
  (∀ (lin : Dword) (n : Nat) (s : State), alignCheck lin n s = .error (.raise .ac) ↔
    s.mode ≠ .real ∧ s.cpl = 3 ∧ s.cr0.am = true ∧ flagAC s.eflags = true ∧ ¬n ∣ lin.toNat) ∧
  (∀ (who : Requester) (write : Bool) (S : SReg) (off : Dword) (n : Nat) (s : State),
    access who write S off n s = .error (.raise .ac) →
      segmentCheck who write S off n s = .ok () ∧ (∃ ps, translateBytes write s (s.linear S off) n = .ok ps) ∧
        alignCheck (s.linear S off) n s = .error (.raise .ac)) ∧
  ∀ (who : Requester) (write : Bool) (S : SReg) (off : Dword) (n : Nat) (s : State) (ps : List Nat),
    segmentCheck who write S off n s = .ok () → translateBytes write s (s.linear S off) n = .ok ps →
    alignCheck (s.linear S off) n s = .error (.raise .ac) → access who write S off n s = .error (.raise .ac)

/-- R60: a store is little-endian, byte `k` of the access holding bits `8k+7:8k` of the value, and a read of the same
bytes gives the value back. In real-address mode, where the addresses of an access are always distinct. The byte order
is the spec's decision D1; that each byte's linear address is taken modulo 2^32 is the model's inference
(notes/assumptions/16.md). -/
def Obligations.StoreIsLittleEndianAndReadBack : Prop :=
  ∀ (S : SReg) (off : Dword) (n : Nat) (v : Qword) (s t : State), s.mode = .real → n ≤ 8 →
    memWrite S off n v s = .ok t →
    (∀ k, k < n → t.mem.read (s.linear S (off + BitVec.ofNat 32 k)).toNat = v.extractLsb' (8 * k) 8) ∧
    ∃ r, memRead .integer S off n t = .ok r ∧ r.toNat = v.toNat % 2 ^ (8 * n)

/-- R72: a memory operand goes through the overriding segment if there is an override, else through SS when the base
register is EBP, BP or ESP, else through DS. The default segments are the spec's, from general knowledge (G9). -/
def Obligations.OperandSegment : Prop :=
  ∀ (S : SReg) (a : Addr), MemOp.segment ⟨some S, a⟩ = S ∧
    MemOp.segment ⟨none, a⟩ =
      match a with
      | .a16 b _ => if b = .bpsi ∨ b = .bpdi ∨ b = .bp then .ss else .ds
      | .a32 b _ => if b = .ebp ∨ b = .esp then .ss else .ds
      | .sib b _ _ _ => if b = .ebp ∨ b = .esp then .ss else .ds
      | .abs16 _ => .ds
      | .abs32 _ => .ds
      | .sibNoBase _ _ _ => .ds

/-- R90 to R93: the effective address of every addressing form. A 32-bit one is the sum of base, scaled index and
displacement modulo 2^32, ESP being no index; a 16-bit one is the sum modulo 2^16, zero-extended; disp8 is
sign-extended. The addressing forms are the spec's, from general knowledge (G9). -/
def Obligations.EffectiveAddressWidths : Prop :=
  ∀ (s : State) (a : Addr),
    let index := fun (sc : BitVec 2) (i : Reg) => if i = .esp then (0 : Int) else (s.reg i).toNat * 2 ^ sc.toNat
    let half := fun r : Reg => ((s.reg r).toNat : Int) % 2 ^ 16
    ((effectiveAddr s a).toNat : Int) = match a with
      | .a16 .bxsi d => (half .ebx + half .esi + disp16Int d) % 2 ^ 16
      | .a16 .bxdi d => (half .ebx + half .edi + disp16Int d) % 2 ^ 16
      | .a16 .bpsi d => (half .ebp + half .esi + disp16Int d) % 2 ^ 16
      | .a16 .bpdi d => (half .ebp + half .edi + disp16Int d) % 2 ^ 16
      | .a16 .si d => (half .esi + disp16Int d) % 2 ^ 16
      | .a16 .di d => (half .edi + disp16Int d) % 2 ^ 16
      | .a16 .bp d => (half .ebp + disp16Int d) % 2 ^ 16
      | .a16 .bx d => (half .ebx + disp16Int d) % 2 ^ 16
      | .abs16 o => o.toNat
      | .a32 b d => ((s.reg b).toNat + disp32Int d) % 2 ^ 32
      | .abs32 o => o.toNat
      | .sib b sc i d => ((s.reg b).toNat + index sc i + disp32Int d) % 2 ^ 32
      | .sibNoBase sc i o => (o.toNat + index sc i) % 2 ^ 32

/-! ## POP -/

/-- R202, R203: POP r16 and POP r32. The register holds the popped item, also when it is the stack pointer; otherwise
the stack pointer has moved up; every other register and all else is as before. A read that raises makes the POP raise.
That POP SP keeps the popped value is the spec's decision D28, the wrap of the stack pointer its decision D11. -/
def Obligations.PopRegister : Prop :=
  ∀ (r : Reg) (s : State),
    (encode true (.popR32 r) = [0x58 + r.toBits.setWidth 8] ∧ encode false (.popR16 r) = [0x58 + r.toBits.setWidth 8]) ∧
    (∀ q, memRead .integer .ss s.sp 4 s = .ok q →
      ∃ t, exec (.popR32 r) s = .next t ∧ RestKept (.popR32 r) s t ∧ t.mem = s.mem ∧ t.reg r = q.setWidth 32 ∧
        ∀ x, x ≠ r → t.reg x = if x = .esp then espPlus s 4 else s.reg x) ∧
    (∀ q, memRead .integer .ss s.sp 2 s = .ok q →
      ∃ t, exec (.popR16 r) s = .next t ∧ RestKept (.popR16 r) s t ∧ t.mem = s.mem ∧
        t.reg r = (if r = .esp then espPlus s 2 else s.reg r).extractLsb' 16 16 ++ q.setWidth 16 ∧
        ∀ x, x ≠ r → t.reg x = if x = .esp then espPlus s 2 else s.reg x) ∧
    (∀ e, memRead .integer .ss s.sp 4 s = .error (.raise e) → Raises (.popR32 r) s e) ∧
    ∀ e, memRead .integer .ss s.sp 2 s = .error (.raise e) → Raises (.popR16 r) s e

/-- R204, R205: POP m16 and POP m32. The destination's address is computed with the registers after the stack pointer
has moved, except in the case of R206; the item is stored there and nowhere else. A read that raises makes the POP
raise, and so does a write that raises after it. The order of the steps and the stack-pointer arithmetic are the spec's
decisions D23 and D11. `freeCount` is the model's own (notes/assumptions/5.md). -/
def Obligations.PopMemory : Prop :=
  let P := fun (sz : OpSize) (mk : MemOp → Instr) => ∀ (m : MemOp) (s : State) (q : Qword) (ps : List Nat),
    memRead .integer .ss s.sp (opBytes sz) s = .ok q →
    let p := s.setSp (s.spPlus (opBytes sz))
    access .integer true (MemOp.segment m) (popDestOffset sz m s p) (opBytes sz) p = .ok ps →
    ∃ t, exec (mk m) s = .next t ∧
      t = { s with
        regs := p.regs, mem := t.mem, pc := s.pc + BitVec.ofNat 32 (s.lengthOf (mk m)), inhibit := false,
        freeCount := t.freeCount } ∧
      (popWraps sz m s = false → t.freeCount = s.freeCount ∧ popDestOffset sz m s p = effectiveAddr p m.addr) ∧
      t.reg .esp = espPlus s (opBytes sz) ∧ (∀ x, x ≠ .esp → t.reg x = s.reg x) ∧
      (ps.Nodup → ps.map t.mem.read = leBytes (opBytes sz) q) ∧ ∀ a, a ∉ ps → t.mem.read a = s.mem.read a
  let Q := fun (sz : OpSize) (mk : MemOp → Instr) => ∀ (m : MemOp) (s : State) (e : Exn),
    (memRead .integer .ss s.sp (opBytes sz) s = .error (.raise e) → Raises (mk m) s e) ∧
    ∀ q, memRead .integer .ss s.sp (opBytes sz) s = .ok q →
      let p := s.setSp (s.spPlus (opBytes sz))
      access .integer true (MemOp.segment m) (popDestOffset sz m s p) (opBytes sz) p = .error (.raise e) →
      Raises (mk m) s e
  (Q .w16 .popM16 ∧ Q .w32 .popM32) ∧
  P .w16 .popM16 ∧ P .w32 .popM32

/-- R215, R210: POP of a segment register in real-address and virtual-8086 mode: no check; the base becomes the selector
times 16, `null` is cleared and the rest of the hidden part stays. This load is the spec's decision D14. `freeCount` is
the model's own (notes/assumptions/5.md). -/
def Obligations.PopSegmentOutsideProtectedMode : Prop :=
  let P := fun (mk : OpSize → Instr) (S : SReg) => ∀ (sz : OpSize) (s : State) (q : Qword), s.mode ≠ .prot →
    memRead .integer .ss s.sp (opBytes sz) s = .ok q →
    ∃ t, exec (mk sz) s = .next t ∧
      t = { s with
        regs := t.regs, segs := t.segs, pc := s.pc + BitVec.ofNat 32 (s.lengthOf (mk sz)), inhibit := t.inhibit,
        freeCount := t.freeCount } ∧
      t.seg S =
        { sel := q.setWidth 16
          hid := { (s.seg S).hid with base := ((q.setWidth 16 : Word).setWidth 32) * 16, null := false } } ∧
      (∀ X, X ≠ S → t.seg X = s.seg X) ∧ t.reg .esp = espPlus s (opBytes sz) ∧ (∀ x, x ≠ .esp → t.reg x = s.reg x) ∧
      (S ≠ .ss → t.inhibit = false ∧ t.freeCount = s.freeCount) ∧ (S = .ss → s.inhibit = false → t.inhibit = true)
  P .popDs .ds ∧ P .popEs .es ∧ P .popFs .fs ∧ P .popGs .gs ∧ P .popSs .ss

/-- R210, R211: POP of a segment register is a pop followed by the load of the low 16 bits, and the load goes by the
mode; nothing else changes, memory included, but the stack pointer, `pc`, `inhibit` and the model's own `freeCount`
(notes/assumptions/5.md). That the upper half of a popped doubleword is ignored is the spec's decision D10. -/
def Obligations.PopSegmentLoadsByMode : Prop :=
  let P := fun (mk : OpSize → Instr) (S : SReg) => ∀ (sz : OpSize) (s : State),
    (∀ e, pop sz s = .error (.raise e) → Raises (mk sz) s e) ∧
    ∀ (v : Dword) (p : State), pop sz s = .ok (v, p) →
      (∀ e, loadSeg S (v.extractLsb' 0 16) p = .error (.raise e) → Raises (mk sz) s e) ∧
      ∀ u, loadSeg S (v.extractLsb' 0 16) p = .ok u → ∃ t, exec (mk sz) s = .next t ∧
        t = { s with
          regs := p.regs, segs := u.segs, pc := s.pc + BitVec.ofNat 32 (s.lengthOf (mk sz)), inhibit := t.inhibit,
          freeCount := t.freeCount } ∧
        (S ≠ .ss → t.inhibit = false ∧ t.freeCount = s.freeCount) ∧ (S = .ss → s.inhibit = false → t.inhibit = true)
  P .popDs .ds ∧ P .popEs .es ∧ P .popFs .fs ∧ P .popGs .gs ∧ P .popSs .ss ∧
  ∀ (S : SReg) (sel : Word) (s : State), S ≠ .cs →
    loadSeg S sel s =
      if s.mode = .prot then
        if S = .ss then loadStackSeg (Config.descLookup s.mem sel) sel s
        else loadDataSeg (Config.descLookup s.mem sel) S sel s
      else .ok (loadRealSeg S sel s)

/-- R212: loading SS in protected mode, whatever `DescLookup` answers. -/
def Obligations.LoadStackSegmentChecks : Prop :=
  ∀ (dd : Config.DescLookup) (sel : Word) (s : State),
    let bad := dd = .outsideTable ∨ selRPL sel ≠ s.cpl ∨ dd = .notCodeOrData ∨
      ∃ d, dd = .found d ∧ (d.code = true ∨ d.writable = false ∨ d.dpl ≠ s.cpl)
    (isNullSel sel = true → loadStackSeg dd sel s = .error (.raise (.gp (some 0)))) ∧
    (isNullSel sel = false → bad → loadStackSeg dd sel s = .error (.raise (.gp (some (sel.setWidth 32))))) ∧
    (isNullSel sel = false → ¬bad → ∀ d, dd = .found d → d.present = false →
      loadStackSeg dd sel s = .error (.raise (.ss (some (sel.setWidth 32))))) ∧
    (isNullSel sel = false → ¬bad → ∀ d, dd = .found d → d.present = true →
      ∃ t, loadStackSeg dd sel s = .ok t ∧ t = { s with segs := t.segs } ∧
        t.seg .ss = { sel := sel, hid := { toDescriptor := d, null := false } } ∧ ∀ X, X ≠ .ss → t.seg X = s.seg X)

/-- R213: loading DS, ES, FS or GS in protected mode with a selector that is not null, whatever `DescLookup` answers. -/
def Obligations.LoadDataSegmentChecks : Prop :=
  ∀ (dd : Config.DescLookup) (S : SReg) (sel : Word) (s : State), isNullSel sel = false →
    let bad := dd = .outsideTable ∨ dd = .notCodeOrData ∨
      ∃ d, dd = .found d ∧ ((d.code = true ∧ d.readable = false) ∨
        ((d.code = false ∨ d.conforming = false) ∧ d.dpl < selRPL sel ∧ d.dpl < s.cpl))
    (bad → loadDataSeg dd S sel s = .error (.raise (.gp (some (sel.setWidth 32))))) ∧
    (¬bad → ∀ d, dd = .found d → d.present = false →
      loadDataSeg dd S sel s = .error (.raise (.np (sel.setWidth 32)))) ∧
    (¬bad → ∀ d, dd = .found d → d.present = true →
      ∃ t, loadDataSeg dd S sel s = .ok t ∧ t = { s with segs := t.segs } ∧
        t.seg S = { sel := sel, hid := { toDescriptor := d, null := false } } ∧ ∀ X, X ≠ S → t.seg X = s.seg X)

/-- R214: a null selector may be loaded into DS, ES, FS or GS in protected mode: no table is consulted, nothing is raised, the
selector is kept as popped and the register is marked null; an access through it then raises #GP(0). That the other
hidden fields stay as they were is the model's choice (notes/assumptions/11.md) and is not stated here. -/
def Obligations.NullSelectorMayBeLoaded : Prop :=
  ∀ (dd : Config.DescLookup) (S : SReg) (sel : Word) (s : State), sel.toNat ≤ 3 →
    ∃ t, loadDataSeg dd S sel s = .ok t ∧ t = { s with segs := t.segs } ∧
      (t.seg S).sel = sel ∧ (t.seg S).hid.null = true ∧ (∀ X, X ≠ S → t.seg X = s.seg X) ∧
      (s.mode = .prot → ∀ (who : Requester) (write : Bool) (off : Dword) (n : Nat),
        access who write S off n t = .error (.raise (.gp (some 0))))

/-- R220, R221: the net effect of POPA and POPAD. Item `k` is read at `k` items above the start; the fourth is skipped
without an access; the 16-bit form keeps the upper halves; the stack pointer ends eight items higher. The first read
that raises makes the instruction raise. The stack-pointer arithmetic is the spec's decision D11, and that it is SP that
moves on a 16-bit stack the choice of 90_conflicts.md C12. -/
def Obligations.PopAllNetEffect : Prop :=
  ∀ (s : State) (q : Nat → Qword),
    (encode true .popad = [0x61] ∧ encode false .popa = [0x61]) ∧
    ((∀ k, k < 8 → k ≠ 3 → memRead .integer .ss (s.spPlus (4 * k)) 4 s = .ok (q k)) →
      ∃ t, exec .popad s = .next t ∧ RestKept .popad s t ∧ t.mem = s.mem ∧ t.reg .esp = espPlus s 32 ∧
        t.reg .edi = (q 0).setWidth 32 ∧ t.reg .esi = (q 1).setWidth 32 ∧ t.reg .ebp = (q 2).setWidth 32 ∧
        t.reg .ebx = (q 4).setWidth 32 ∧ t.reg .edx = (q 5).setWidth 32 ∧ t.reg .ecx = (q 6).setWidth 32 ∧
        t.reg .eax = (q 7).setWidth 32) ∧
    ((∀ k, k < 8 → k ≠ 3 → memRead .integer .ss (s.spPlus (2 * k)) 2 s = .ok (q k)) →
      ∃ t, exec .popa s = .next t ∧ RestKept .popa s t ∧ t.mem = s.mem ∧ t.reg .esp = espPlus s 16 ∧
        let low := fun (r : Reg) (k : Nat) => t.reg r = (s.reg r).extractLsb' 16 16 ++ (q k).setWidth 16
        low .edi 0 ∧ low .esi 1 ∧ low .ebp 2 ∧ low .ebx 4 ∧ low .edx 5 ∧ low .ecx 6 ∧ low .eax 7) ∧
    let R := fun (n : Nat) (i : Instr) => ∀ (k : Nat) (e : Exn), k < 8 → k ≠ 3 →
      (∀ j, j < k → j ≠ 3 → memRead .integer .ss (s.spPlus (n * j)) n s = .ok (q j)) →
      memRead .integer .ss (s.spPlus (n * k)) n s = .error (.raise e) → Raises i s e
    R 4 .popad ∧ R 2 .popa

/-- R230 to R235, R237: POPF and POPFD in every mode: which bits of EFLAGS come from the image, which are cleared and
which stay; a read that raises makes them raise. The 32-bit form in virtual-8086 mode and the IF condition are the
spec's decisions D25 and D26, the stack-pointer arithmetic D11. -/
def Obligations.PopFlagsByMode : Prop :=
  let Q := fun (sz : OpSize) (i : Instr) => ∀ (s : State) (e : Exn),
    ¬(s.mode = .v86 ∧ flagIOPL s.eflags ≠ 3) → memRead .integer .ss s.sp (opBytes sz) s = .error (.raise e) → Raises i s e
  let P := fun (sz : OpSize) (i : Instr) => ∀ (s : State) (q : Qword),
    ¬(s.mode = .v86 ∧ flagIOPL s.eflags ≠ 3) → memRead .integer .ss s.sp (opBytes sz) s = .ok q →
    ∃ t, exec i s = .next t ∧
      t = { s with
        regs := t.regs, eflags := t.eflags, pc := s.pc + BitVec.ofNat 32 (s.lengthOf i), inhibit := false } ∧
      t.reg .esp = espPlus s (opBytes sz) ∧ (∀ x, x ≠ .esp → t.reg x = s.reg x) ∧
      let set := fun (modify clear : Dword) =>
        t.eflags = (s.eflags &&& ~~~(modify ||| clear)) ||| (q.setWidth 32 &&& modify)
      match s.mode, sz with
      | .v86, .w32 => set 0x00244FD5 0
      | .v86, .w16 => set 0x00004FD5 0
      | .real, .w32 => set 0x00257FD5 0x00180000
      | .real, .w16 => set 0x00007FD5 0
      | .prot, .w32 =>
        if s.cpl = 0 then set 0x00257FD5 0x00180000
        else if s.cpl ≤ flagIOPL s.eflags then set 0x00254FD5 0x00180000 else set 0x00254DD5 0x00180000
      | .prot, .w16 =>
        if s.cpl = 0 then set 0x00007FD5 0
        else if s.cpl ≤ flagIOPL s.eflags then set 0x00004FD5 0 else set 0x00004DD5 0
  (P .w16 .popf ∧ P .w32 .popfd) ∧ Q .w16 .popf ∧ Q .w32 .popfd

/-- R236: what POPF and POPFD never do, in any mode and at any level: change VM or a reserved bit, set VIF or VIP,
change IOPL where they may not, or change IF in protected mode at a level above IOPL. That last is the spec's decision
D26 (R233, 90_conflicts.md C8). -/
def Obligations.PopFlagsNeverDoes : Prop :=
  ∀ (m : Mode) (cpl : BitVec 2) (sz : OpSize) (old v : Dword),
    let f := popfFlags m cpl sz old v
    flagVM f = flagVM old ∧ f &&& reservedMask = old &&& reservedMask ∧
    (f.getLsbD 19 = true → old.getLsbD 19 = true) ∧ (f.getLsbD 20 = true → old.getLsbD 20 = true) ∧
    (m = .v86 ∨ (m = .prot ∧ cpl ≠ 0) → flagIOPL f = flagIOPL old) ∧
    (m = .prot → cpl > flagIOPL old → f.getLsbD 9 = old.getLsbD 9)

/-- R235, R340: in virtual-8086 mode with IOPL below 3, POPF, POPFD, PUSHF and PUSHFD raise #GP(0) before any stack
access. That the 32-bit form raises only here is the spec's decision D25. -/
def Obligations.FlagsInstructionsNeedIopl3InV86 : Prop :=
  ∀ (s : State), s.mode = .v86 → flagIOPL s.eflags ≠ 3 →
    Raises .popf s (.gp (some 0)) ∧ Raises .popfd s (.gp (some 0)) ∧ Raises .pushf s (.gp (some 0)) ∧
      Raises .pushfd s (.gp (some 0))

/-! ## PUSH -/

/-- R322, R324: PUSH of a register, by its own opcode or by FF /6 with mod = 3, stores the value it had before the
instruction, the stack pointer's too; a store that raises makes the PUSH raise. The wrap of the stack pointer and the
byte order of the item are the spec's decisions D11 and D1. -/
def Obligations.PushRegister : Prop :=
  ∀ (r : Reg) (s : State) (ps : List Nat),
    (encode true (.pushR32 r) = [0x50 + r.toBits.setWidth 8] ∧ encode false (.pushR16 r) = [0x50 + r.toBits.setWidth 8]) ∧
    (CanPush .w32 s ps →
      (∃ t, exec (.pushR32 r) s = .next t ∧ Pushed (.pushR32 r) .w32 (s.reg r) 0 s ps t) ∧
      ∃ t, exec (.pushRm32 (.reg r)) s = .next t ∧ Pushed (.pushRm32 (.reg r)) .w32 (s.reg r) 0 s ps t) ∧
    (CanPush .w16 s ps →
      (∃ t, exec (.pushR16 r) s = .next t ∧ Pushed (.pushR16 r) .w16 ((s.reg16 r).setWidth 32) 0 s ps t) ∧
      ∃ t, exec (.pushRm16 (.reg r)) s = .next t ∧
        Pushed (.pushRm16 (.reg r)) .w16 ((s.reg16 r).setWidth 32) 0 s ps t) ∧
    (∀ e, PushRaises .w32 s e → Raises (.pushR32 r) s e ∧ Raises (.pushRm32 (.reg r)) s e) ∧
    ∀ e, PushRaises .w16 s e → Raises (.pushR16 r) s e ∧ Raises (.pushRm16 (.reg r)) s e

/-- R323: PUSH of a memory operand reads it, at an address computed before the stack pointer moves, and then pushes; an
exception of the read is the one reported, else one of the store. That the read's comes first is the spec's own
inference; the wrap of the stack pointer and the byte order are its decisions D11 and D1. -/
def Obligations.PushMemory : Prop :=
  let P := fun (sz : OpSize) (mk : RmSrc → Instr) => ∀ (m : MemOp) (s : State),
    (∀ q ps, memRead .integer (MemOp.segment m) (effectiveAddr s m.addr) (opBytes sz) s = .ok q → CanPush sz s ps →
      ∃ t, exec (mk (.mem m)) s = .next t ∧ Pushed (mk (.mem m)) sz (q.setWidth 32) 0 s ps t) ∧
    (∀ e, memRead .integer (MemOp.segment m) (effectiveAddr s m.addr) (opBytes sz) s = .error (.raise e) →
      Raises (mk (.mem m)) s e) ∧
    ∀ q e, memRead .integer (MemOp.segment m) (effectiveAddr s m.addr) (opBytes sz) s = .ok q → PushRaises sz s e →
      Raises (mk (.mem m)) s e
  P .w16 .pushRm16 ∧ P .w32 .pushRm32

/-- R325: PUSH of an immediate; an imm8 is sign-extended to the operand size; a store that raises makes the PUSH raise.
The sign extension is the spec's, from general knowledge (G18); the wrap of the stack pointer and the byte order are its
decisions D11 and D1. -/
def Obligations.PushImmediate : Prop :=
  ∀ (s : State) (ps : List Nat),
    (∀ (ib : Byte), encode true (.pushImm8 .w32 ib) = [0x6A, ib]) ∧
    (CanPush .w32 s ps →
      (∀ ib : Byte, ∃ t, exec (.pushImm8 .w32 ib) s = .next t ∧
        Pushed (.pushImm8 .w32 ib) .w32 (ib.signExtend 32) 0 s ps t) ∧
      ∀ id : Dword, ∃ t, exec (.pushImm32 id) s = .next t ∧ Pushed (.pushImm32 id) .w32 id 0 s ps t) ∧
    (CanPush .w16 s ps →
      (∀ ib : Byte, ∃ t, exec (.pushImm8 .w16 ib) s = .next t ∧
        Pushed (.pushImm8 .w16 ib) .w16 ((ib.signExtend 16).setWidth 32) 0 s ps t) ∧
      ∀ iw : Word, ∃ t, exec (.pushImm16 iw) s = .next t ∧ Pushed (.pushImm16 iw) .w16 (iw.setWidth 32) 0 s ps t) ∧
    (∀ e, PushRaises .w32 s e → (∀ ib, Raises (.pushImm8 .w32 ib) s e) ∧ ∀ id, Raises (.pushImm32 id) s e) ∧
    ∀ e, PushRaises .w16 s e → (∀ ib, Raises (.pushImm8 .w16 ib) s e) ∧ ∀ iw, Raises (.pushImm16 iw) s e

/-- R326: PUSH of a segment register stores the visible selector; in the 32-bit form the upper half of the item is the
free value `PushSregUpper`; a store that raises makes the PUSH raise. The free upper half is the spec's decision D9
(notes/assumptions/8.md), and the count of its use is the model's own field (notes/assumptions/5.md); the wrap of the
stack pointer and the byte order are its decisions D11 and D1. -/
def Obligations.PushSegment : Prop :=
  let P := fun (mk : OpSize → Instr) (S : SReg) => ∀ (s : State) (ps : List Nat),
    (CanPush .w16 s ps → ∃ t, exec (mk .w16) s = .next t ∧ Pushed (mk .w16) .w16 ((s.seg S).sel.setWidth 32) 0 s ps t) ∧
    (CanPush .w32 s ps → ∃ t, exec (mk .w32) s = .next t ∧
      Pushed (mk .w32) .w32 (Config.pushSregUpper s ++ (s.seg S).sel) 1 s ps t) ∧
    ∀ sz e, PushRaises sz s e → Raises (mk sz) s e
  P .pushCs .cs ∧ P .pushSs .ss ∧ P .pushDs .ds ∧ P .pushEs .es ∧ P .pushFs .fs ∧ P .pushGs .gs

/-- R340, R341: PUSHF stores the low 16 bits of EFLAGS; PUSHFD stores EFLAGS with VM, RF and bits 31:24 cleared; EFLAGS
stays. In virtual-8086 mode with IOPL below 3 they raise #GP(0); otherwise a store that raises makes them raise. The
wrap of the stack pointer and the byte order are the spec's decisions D11 and D1, and that the store may raise in
real-address mode is its decision D27. -/
def Obligations.PushFlagsImage : Prop :=
  ∀ (s : State),
    (s.mode = .v86 ∧ flagIOPL s.eflags ≠ 3 → Raises .pushf s (.gp (some 0)) ∧ Raises .pushfd s (.gp (some 0))) ∧
    (¬(s.mode = .v86 ∧ flagIOPL s.eflags ≠ 3) → ∀ ps : List Nat,
      (CanPush .w16 s ps → ∃ t, exec .pushf s = .next t ∧
        Pushed .pushf .w16 ((s.eflags.setWidth 16).setWidth 32) 0 s ps t) ∧
      (CanPush .w32 s ps → ∃ t, exec .pushfd s = .next t ∧
        Pushed .pushfd .w32 (s.eflags &&& 0x00FCFFFF) 0 s ps t)) ∧
    ∀ e, ¬(s.mode = .v86 ∧ flagIOPL s.eflags ≠ 3) →
      (PushRaises .w16 s e → Raises .pushf s e) ∧ (PushRaises .w32 s e → Raises .pushfd s e)

/-- R330, R331, R332: the net effect of PUSHA and PUSHAD in real-address mode: item `k` is the register of number `k`,
with the value it had before the instruction, stored `k + 1` items below the start; no other byte of memory changes, and
no register but the stack pointer. The premises are that the start test of R332 passes, that no push meets a stack
pointer of 1 (R327), and that every store is admitted. Where a push after admitted ones meets a stack pointer of 1, the
processor shuts down; where its store raises, the instruction raises. In every mode a push that raises after the pushes
before it makes the instruction raise. The stack-pointer arithmetic and the byte order are the spec's decisions D11 and
D1, its outcome outside the listed values D27; that the shutdown leaves memory as it was is the model's inference
(notes/assumptions/18.md). -/
def Obligations.PushAllNetEffect : Prop :=
  let R := fun (sz : OpSize) (i : Instr) => ∀ (s : State) (k : Nat), s.mode = .real →
    s.sp.toNat ∉ [1, 3, 5, 7, 9, 11, 13, 15] → k < 8 →
    (∀ j, j < k → s.spMinus (opBytes sz * j) ≠ 1 ∧
      ∃ ps, access .integer true .ss (s.spMinus (opBytes sz * (j + 1))) (opBytes sz) s = .ok ps) →
    (s.spMinus (opBytes sz * k) = 1 → ShutsDown i s) ∧
    (s.spMinus (opBytes sz * k) ≠ 1 → ∀ e,
      access .integer true .ss (s.spMinus (opBytes sz * (k + 1))) (opBytes sz) s = .error (.raise e) → Raises i s e)
  let G := fun (sz : OpSize) (i : Instr) => ∀ (s t : State) (k : Nat) (e : Exn),
    s.mode = .prot ∨ s.sp.toNat ∉ [1, 3, 5, 7, 9, 11, 13, 15] → k < 8 →
    pushList sz ((pushAllOrder.map (s.regSz sz)).take k) s = .ok t → PushRaises sz t e → Raises i s e
  let P := fun (sz : OpSize) (i : Instr) => ∀ (s : State) (ps : Nat → List Nat), s.mode = .real →
    s.sp.toNat ∉ [1, 3, 5, 7, 9, 11, 13, 15] → (∀ k, k < 8 → s.spMinus (opBytes sz * k) ≠ 1) →
    (∀ k, k < 8 → access .integer true .ss (s.spMinus (opBytes sz * (k + 1))) (opBytes sz) s = .ok (ps k)) →
    ((List.range 8).flatMap ps).Nodup →
    ∃ t, exec i s = .next t ∧ RestKept i s t ∧ t.reg .esp = espMinus s (opBytes sz * 8) ∧
      (∀ x, x ≠ .esp → t.reg x = s.reg x) ∧
      (∀ r : Reg, (ps r.toBits.toNat).map t.mem.read = leBytes (opBytes sz) ((s.reg r).setWidth 64)) ∧
      ∀ a, (∀ k, k < 8 → a ∉ ps k) → t.mem.read a = s.mem.read a
  (P .w16 .pusha ∧ P .w32 .pushad) ∧ (R .w16 .pusha ∧ R .w32 .pushad) ∧ G .w16 .pusha ∧ G .w32 .pushad

/-- R332: the test of the starting stack pointer of PUSHA and PUSHAD, and what follows when it passes. The outcome of
the values 1, 3 and 5 in virtual-8086 mode is the spec's decision D27. -/
def Obligations.PushAllStartTest : Prop :=
  let P := fun (sz : OpSize) (i : Instr) => ∀ s : State,
    (s.mode = .real → s.sp.toNat ∈ [1, 3, 5] → ShutsDown i s) ∧
    (s.mode = .real → s.sp.toNat ∈ [7, 9, 11, 13, 15] → Raises i s (.gp none)) ∧
    (s.mode = .v86 → s.sp.toNat ∈ [1, 3, 5, 7, 9, 11, 13, 15] → Raises i s (.gp (some 0))) ∧
    (s.mode = .prot ∨ s.sp.toNat ∉ [1, 3, 5, 7, 9, 11, 13, 15] →
      exec i s = settle i false s (pushList sz (pushAllOrder.map (s.regSz sz)) s))
  P .w16 .pusha ∧ P .w32 .pushad

/-- R327, R383: in real-address mode a stack pointer of 1 makes every PUSH and PUSHF shut the processor down, a PUSH of
a memory operand after its read; nothing else changes, no exception is raised, and no step follows. Nothing shuts the
processor down in another mode. That both operand sizes and PUSHF shut down, and that the read comes first, is the
spec's decision D27 (90_conflicts.md C10); that no step follows is D17; that a shutdown inside PUSHA leaves memory as it
was, and that `inhibit` stays, is the model's inference (notes/assumptions/18.md). -/
def Obligations.ShutdownForLackOfStack : Prop :=
  (∀ (s : State), s.mode = .real → s.sp = 1 →
    (∀ r, ShutsDown (.pushR16 r) s ∧ ShutsDown (.pushR32 r) s ∧ ShutsDown (.pushRm16 (.reg r)) s ∧
      ShutsDown (.pushRm32 (.reg r)) s) ∧
    (∀ m q, memRead .integer (MemOp.segment m) (effectiveAddr s m.addr) 2 s = .ok q → ShutsDown (.pushRm16 (.mem m)) s) ∧
    (∀ m q, memRead .integer (MemOp.segment m) (effectiveAddr s m.addr) 4 s = .ok q → ShutsDown (.pushRm32 (.mem m)) s) ∧
    (∀ sz ib, ShutsDown (.pushImm8 sz ib) s) ∧ (∀ iw, ShutsDown (.pushImm16 iw) s) ∧
    (∀ id, ShutsDown (.pushImm32 id) s) ∧
    (∀ sz, ShutsDown (.pushCs sz) s ∧ ShutsDown (.pushSs sz) s ∧ ShutsDown (.pushDs sz) s ∧ ShutsDown (.pushEs sz) s ∧
      ShutsDown (.pushFs sz) s ∧ ShutsDown (.pushGs sz) s) ∧
    ShutsDown .pushf s ∧ ShutsDown .pushfd s ∧ ShutsDown .pusha s ∧ ShutsDown .pushad s) ∧
  (∀ (i : Instr) (s t : State), exec i s = .next t → s.shutdown = false → t.shutdown = true →
    s.mode = .real ∧ t = { s with shutdown := true }) ∧
  ∀ s : State, s.shutdown = true → step s = .fault .shutDown

/-- R321, R201, R60: in real-address mode POP r32 undoes PUSH r32, and POP r16 undoes PUSH r16: the popped register holds
the value pushed (the 16-bit form keeps its bits 31:16), and every other register, the stack pointer too, is back where
it was. It rests on the spec's decisions D1, D11 and, where the popped register is SP, D28. -/
def Obligations.PopUndoesPush : Prop :=
  ∀ (r x : Reg) (s t : State), s.mode = .real → s.shutdown = false → t.shutdown = false →
    (exec (.pushR32 r) s = .next t →
      ∃ u, exec (.popR32 x) t = .next u ∧ u.reg x = s.reg r ∧ ∀ y, y ≠ x → u.reg y = s.reg y) ∧
    (exec (.pushR16 r) s = .next t →
      ∃ u, exec (.popR16 x) t = .next u ∧ u.reg x = (s.reg x).extractLsb' 16 16 ++ s.reg16 r ∧
        ∀ y, y ≠ x → u.reg y = s.reg y)
end

