-- ==== Sys2Proof/Laws/Memory.lean ====
section
/-! SUPPORT. Memory contents: a read after a write, and the canonical form, which every operation on memory keeps. -/

namespace Sys2Proof.Machine

/-! ## Reading after writing -/

/-- Dropping the entries of one address leaves every other address alone. -/
theorem Memory.read_filter_ne (m : Memory) (a x : Nat) (h : x ≠ a) :
    Memory.read (m.filter (fun c => c.1 ≠ a)) x = m.read x := by
  induction m with
  | nil => rfl
  | cons c m ih =>
    by_cases hc : c.1 = a
    · have : c.1 ≠ x := fun e => h (e ▸ hc ▸ rfl)
      simp only [List.filter_cons, hc, ne_eq, not_true_eq_false, decide_false, Bool.false_eq_true, if_false,
        Memory.read, hc ▸ this]
      simpa using ih
    · simp only [List.filter_cons, hc, ne_eq, not_false_eq_true, decide_true, if_true, Memory.read]
      split <;> simp_all

/-- After its entries are dropped an address reads as unlisted. -/
theorem Memory.read_filter_self (m : Memory) (a : Nat) :
    Memory.read (m.filter (fun c => c.1 ≠ a)) a = defaultByte := by
  induction m with
  | nil => rfl
  | cons c m ih =>
    by_cases hc : c.1 = a
    · simpa [hc] using ih
    · simp only [List.filter_cons, hc, ne_eq, not_false_eq_true, decide_true, if_true, Memory.read, if_false]
      simpa using ih

/-- An entry put into a memory that does not list its address is what that address reads as. -/
theorem Memory.read_insertCell (m : Memory) (a : Nat) (b : Byte) (x : Nat) (h : ∀ c ∈ m, c.1 ≠ a) :
    Memory.read (Memory.insertCell m a b) x = if x = a then b else m.read x := by
  induction m with
  | nil => simp [Memory.insertCell, Memory.read, eq_comm]
  | cons c m ih =>
    have hc : c.1 ≠ a := h c (by simp)
    have ih := ih fun d hd => h d (by simp [hd])
    unfold Memory.insertCell
    split
    · simp only [Memory.read, eq_comm (a := a)]
    · simp only [Memory.read, ih]
      by_cases e : c.1 = x
      · have : x ≠ a := e ▸ hc
        simp [e, this]
      · simp [e]

/-- A byte written is read back, and every other address reads as before. -/
@[simp] theorem Memory.read_write (m : Memory) (a : Nat) (b : Byte) (x : Nat) :
    (m.write a b).read x = if x = a then b else m.read x := by
  unfold Memory.write
  by_cases hx : x = a
  · subst hx
    split
    · rename_i hb
      simpa [hb] using Memory.read_filter_self m x
    · rw [Memory.read_insertCell _ _ _ _ (by simp)]
      simp
  · split
    · simpa [hx] using Memory.read_filter_ne m a x hx
    · rw [Memory.read_insertCell _ _ _ _ (by simp)]
      simpa [hx] using Memory.read_filter_ne m a x hx

/-- Storing bytes leaves every address that is not among the stored ones alone. -/
theorem Memory.read_store_of_not_mem (addrs : List Nat) (bs : List Byte) (m : Memory) (x : Nat) (h : x ∉ addrs) :
    (m.store addrs bs).read x = m.read x := by
  induction addrs generalizing bs m with
  | nil => simp [Memory.store]
  | cons a addrs ih =>
    cases bs with
    | nil => simp [Memory.store]
    | cons b bs =>
      simp only [List.mem_cons, not_or] at h
      rw [Memory.store, ih bs _ h.2, Memory.read_write]
      simp [h.1]

/-- Bytes stored at distinct addresses are read back. -/
theorem Memory.map_read_store (addrs : List Nat) (bs : List Byte) (m : Memory) (hd : addrs.Nodup)
    (hl : addrs.length = bs.length) : addrs.map (m.store addrs bs).read = bs := by
  induction addrs generalizing bs m with
  | nil => cases bs <;> simp_all
  | cons a addrs ih =>
    cases bs with
    | nil => simp at hl
    | cons b bs =>
      simp only [List.nodup_cons] at hd
      simp only [List.length_cons, Nat.add_right_cancel_iff] at hl
      simp only [Memory.store, List.map_cons, Memory.read_store_of_not_mem addrs bs _ a hd.1, Memory.read_write,
        if_true, ih bs _ hd.2 hl]

/-! ## The canonical form -/

/-- Dropping entries keeps the canonical form. -/
theorem Memory.wf_filter {m : Memory} (h : Memory.wf m) (p : Host.Cell → Bool) : Memory.wf (m.filter p) :=
  ⟨h.1.filter p, fun c hc => h.2 c (List.mem_of_mem_filter hc)⟩

/-- What an insertion lists: the new entry and the old ones. -/
theorem Memory.mem_insertCell (m : Memory) (a : Nat) (b : Byte) (c : Host.Cell) :
    c ∈ Memory.insertCell m a b ↔ c = (a, b) ∨ c ∈ m := by
  induction m with
  | nil => simp [Memory.insertCell]
  | cons d m ih =>
    unfold Memory.insertCell
    split
    · simp
    · simp only [List.mem_cons, ih]
      tauto

/-- Inserting an entry that is not the default, at an address that is not listed, keeps the canonical form. -/
theorem Memory.wf_insertCell {m : Memory} (h : Memory.wf m) (a : Nat) (b : Byte) (hb : b ≠ defaultByte)
    (ha : ∀ c ∈ m, c.1 ≠ a) : Memory.wf (Memory.insertCell m a b) := by
  constructor
  · induction m with
    | nil => simp [Memory.insertCell]
    | cons d m ih =>
      have hd := List.pairwise_cons.1 h.1
      unfold Memory.insertCell
      split
      · rename_i hlt
        refine List.pairwise_cons.2 ⟨fun c hc => ?_, h.1⟩
        rcases List.mem_cons.1 hc with rfl | hc
        · exact hlt
        · exact Nat.lt_trans hlt (hd.1 c hc)
      · rename_i hlt
        have hne : d.1 ≠ a := ha d (by simp)
        refine List.pairwise_cons.2 ⟨fun c hc => ?_, ?_⟩
        · rcases (Memory.mem_insertCell m a b c).1 hc with rfl | hc
          · exact Nat.lt_of_le_of_ne (Nat.le_of_not_lt hlt) hne
          · exact hd.1 c hc
        · exact ih ⟨hd.2, fun c hc => h.2 c (by simp [hc])⟩ fun c hc => ha c (by simp [hc])
  · intro c hc
    rcases (Memory.mem_insertCell m a b c).1 hc with rfl | hc
    · exact hb
    · exact h.2 c hc

/-- Writing a byte keeps the canonical form. -/
theorem Memory.wf_write {m : Memory} (h : Memory.wf m) (a : Nat) (b : Byte) : Memory.wf (m.write a b) := by
  unfold Memory.write
  split
  · exact Memory.wf_filter h _
  · exact Memory.wf_insertCell (Memory.wf_filter h _) a b ‹_› (by simp)

/-- Storing bytes keeps the canonical form. -/
theorem Memory.wf_store (addrs : List Nat) (bs : List Byte) {m : Memory} (h : Memory.wf m) :
    Memory.wf (m.store addrs bs) := by
  induction addrs generalizing bs m with
  | nil => simpa [Memory.store] using h
  | cons a addrs ih =>
    cases bs with
    | nil => simpa [Memory.store] using h
    | cons b bs => exact ih bs (Memory.wf_write h a b)

/-- Memory after reset is in canonical form. -/
theorem Memory.wf_reset : Memory.wf State.reset.mem := by
  simp [Memory.wf, State.reset]

/-! ## Bytes of a value -/

@[simp] theorem leBytes_length (n : Nat) (v : Qword) : (leBytes n v).length = n := by
  induction n generalizing v with
  | zero => rfl
  | succ n ih => simp [leBytes, ih]

end Sys2Proof.Machine
end

