-- ==== Sys2Proof/Laws/State.lean ====
section
/-! SUPPORT. One lemma per field per update of the state, so that no proof unfolds a record update. -/

namespace Sys2Proof.Machine

/-! ## setReg -/

@[simp] theorem State.setReg_regs (s : State) (r : Reg) (v : Dword) : (s.setReg r v).regs = s.regs.set r v := rfl
@[simp] theorem State.setReg_pc (s : State) (r : Reg) (v : Dword) : (s.setReg r v).pc = s.pc := rfl
@[simp] theorem State.setReg_eflags (s : State) (r : Reg) (v : Dword) : (s.setReg r v).eflags = s.eflags := rfl
@[simp] theorem State.setReg_cr0 (s : State) (r : Reg) (v : Dword) : (s.setReg r v).cr0 = s.cr0 := rfl
@[simp] theorem State.setReg_mm (s : State) (r : Reg) (v : Dword) : (s.setReg r v).mm = s.mm := rfl
@[simp] theorem State.setReg_segs (s : State) (r : Reg) (v : Dword) : (s.setReg r v).segs = s.segs := rfl
@[simp] theorem State.setReg_cpl (s : State) (r : Reg) (v : Dword) : (s.setReg r v).cpl = s.cpl := rfl
@[simp] theorem State.setReg_inhibit (s : State) (r : Reg) (v : Dword) : (s.setReg r v).inhibit = s.inhibit := rfl
@[simp] theorem State.setReg_fpuPending (s : State) (r : Reg) (v : Dword) : (s.setReg r v).fpuPending = s.fpuPending := rfl
@[simp] theorem State.setReg_shutdown (s : State) (r : Reg) (v : Dword) : (s.setReg r v).shutdown = s.shutdown := rfl
@[simp] theorem State.setReg_mem (s : State) (r : Reg) (v : Dword) : (s.setReg r v).mem = s.mem := rfl
@[simp] theorem State.setReg_admitted (s : State) (r : Reg) (v : Dword) : (s.setReg r v).admitted = s.admitted := rfl
@[simp] theorem State.setReg_text (s : State) (r : Reg) (v : Dword) : (s.setReg r v).text = s.text := rfl
@[simp] theorem State.setReg_freeCount (s : State) (r : Reg) (v : Dword) : (s.setReg r v).freeCount = s.freeCount := rfl

/-! ## setReg16 -/

@[simp] theorem State.setReg16_regs (s : State) (r : Reg) (v : Word) : (s.setReg16 r v).regs = s.regs.set r ((s.reg r).extractLsb' 16 16 ++ v) := rfl
@[simp] theorem State.setReg16_pc (s : State) (r : Reg) (v : Word) : (s.setReg16 r v).pc = s.pc := rfl
@[simp] theorem State.setReg16_eflags (s : State) (r : Reg) (v : Word) : (s.setReg16 r v).eflags = s.eflags := rfl
@[simp] theorem State.setReg16_cr0 (s : State) (r : Reg) (v : Word) : (s.setReg16 r v).cr0 = s.cr0 := rfl
@[simp] theorem State.setReg16_mm (s : State) (r : Reg) (v : Word) : (s.setReg16 r v).mm = s.mm := rfl
@[simp] theorem State.setReg16_segs (s : State) (r : Reg) (v : Word) : (s.setReg16 r v).segs = s.segs := rfl
@[simp] theorem State.setReg16_cpl (s : State) (r : Reg) (v : Word) : (s.setReg16 r v).cpl = s.cpl := rfl
@[simp] theorem State.setReg16_inhibit (s : State) (r : Reg) (v : Word) : (s.setReg16 r v).inhibit = s.inhibit := rfl
@[simp] theorem State.setReg16_fpuPending (s : State) (r : Reg) (v : Word) : (s.setReg16 r v).fpuPending = s.fpuPending := rfl
@[simp] theorem State.setReg16_shutdown (s : State) (r : Reg) (v : Word) : (s.setReg16 r v).shutdown = s.shutdown := rfl
@[simp] theorem State.setReg16_mem (s : State) (r : Reg) (v : Word) : (s.setReg16 r v).mem = s.mem := rfl
@[simp] theorem State.setReg16_admitted (s : State) (r : Reg) (v : Word) : (s.setReg16 r v).admitted = s.admitted := rfl
@[simp] theorem State.setReg16_text (s : State) (r : Reg) (v : Word) : (s.setReg16 r v).text = s.text := rfl
@[simp] theorem State.setReg16_freeCount (s : State) (r : Reg) (v : Word) : (s.setReg16 r v).freeCount = s.freeCount := rfl

/-! ## setMm -/

@[simp] theorem State.setMm_regs (s : State) (r : MReg) (v : Qword) : (s.setMm r v).regs = s.regs := rfl
@[simp] theorem State.setMm_pc (s : State) (r : MReg) (v : Qword) : (s.setMm r v).pc = s.pc := rfl
@[simp] theorem State.setMm_eflags (s : State) (r : MReg) (v : Qword) : (s.setMm r v).eflags = s.eflags := rfl
@[simp] theorem State.setMm_cr0 (s : State) (r : MReg) (v : Qword) : (s.setMm r v).cr0 = s.cr0 := rfl
@[simp] theorem State.setMm_mm (s : State) (r : MReg) (v : Qword) : (s.setMm r v).mm = s.mm.set r v := rfl
@[simp] theorem State.setMm_segs (s : State) (r : MReg) (v : Qword) : (s.setMm r v).segs = s.segs := rfl
@[simp] theorem State.setMm_cpl (s : State) (r : MReg) (v : Qword) : (s.setMm r v).cpl = s.cpl := rfl
@[simp] theorem State.setMm_inhibit (s : State) (r : MReg) (v : Qword) : (s.setMm r v).inhibit = s.inhibit := rfl
@[simp] theorem State.setMm_fpuPending (s : State) (r : MReg) (v : Qword) : (s.setMm r v).fpuPending = s.fpuPending := rfl
@[simp] theorem State.setMm_shutdown (s : State) (r : MReg) (v : Qword) : (s.setMm r v).shutdown = s.shutdown := rfl
@[simp] theorem State.setMm_mem (s : State) (r : MReg) (v : Qword) : (s.setMm r v).mem = s.mem := rfl
@[simp] theorem State.setMm_admitted (s : State) (r : MReg) (v : Qword) : (s.setMm r v).admitted = s.admitted := rfl
@[simp] theorem State.setMm_text (s : State) (r : MReg) (v : Qword) : (s.setMm r v).text = s.text := rfl
@[simp] theorem State.setMm_freeCount (s : State) (r : MReg) (v : Qword) : (s.setMm r v).freeCount = s.freeCount := rfl

/-! ## setSeg -/

@[simp] theorem State.setSeg_regs (s : State) (S : SReg) (v : Segment) : (s.setSeg S v).regs = s.regs := rfl
@[simp] theorem State.setSeg_pc (s : State) (S : SReg) (v : Segment) : (s.setSeg S v).pc = s.pc := rfl
@[simp] theorem State.setSeg_eflags (s : State) (S : SReg) (v : Segment) : (s.setSeg S v).eflags = s.eflags := rfl
@[simp] theorem State.setSeg_cr0 (s : State) (S : SReg) (v : Segment) : (s.setSeg S v).cr0 = s.cr0 := rfl
@[simp] theorem State.setSeg_mm (s : State) (S : SReg) (v : Segment) : (s.setSeg S v).mm = s.mm := rfl
@[simp] theorem State.setSeg_segs (s : State) (S : SReg) (v : Segment) : (s.setSeg S v).segs = s.segs.set S v := rfl
@[simp] theorem State.setSeg_cpl (s : State) (S : SReg) (v : Segment) : (s.setSeg S v).cpl = s.cpl := rfl
@[simp] theorem State.setSeg_inhibit (s : State) (S : SReg) (v : Segment) : (s.setSeg S v).inhibit = s.inhibit := rfl
@[simp] theorem State.setSeg_fpuPending (s : State) (S : SReg) (v : Segment) : (s.setSeg S v).fpuPending = s.fpuPending := rfl
@[simp] theorem State.setSeg_shutdown (s : State) (S : SReg) (v : Segment) : (s.setSeg S v).shutdown = s.shutdown := rfl
@[simp] theorem State.setSeg_mem (s : State) (S : SReg) (v : Segment) : (s.setSeg S v).mem = s.mem := rfl
@[simp] theorem State.setSeg_admitted (s : State) (S : SReg) (v : Segment) : (s.setSeg S v).admitted = s.admitted := rfl
@[simp] theorem State.setSeg_text (s : State) (S : SReg) (v : Segment) : (s.setSeg S v).text = s.text := rfl
@[simp] theorem State.setSeg_freeCount (s : State) (S : SReg) (v : Segment) : (s.setSeg S v).freeCount = s.freeCount := rfl

/-! ## setFlags -/

@[simp] theorem State.setFlags_regs (s : State) (v : Dword) : (s.setFlags v).regs = s.regs := rfl
@[simp] theorem State.setFlags_pc (s : State) (v : Dword) : (s.setFlags v).pc = s.pc := rfl
@[simp] theorem State.setFlags_eflags (s : State) (v : Dword) : (s.setFlags v).eflags = v := rfl
@[simp] theorem State.setFlags_cr0 (s : State) (v : Dword) : (s.setFlags v).cr0 = s.cr0 := rfl
@[simp] theorem State.setFlags_mm (s : State) (v : Dword) : (s.setFlags v).mm = s.mm := rfl
@[simp] theorem State.setFlags_segs (s : State) (v : Dword) : (s.setFlags v).segs = s.segs := rfl
@[simp] theorem State.setFlags_cpl (s : State) (v : Dword) : (s.setFlags v).cpl = s.cpl := rfl
@[simp] theorem State.setFlags_inhibit (s : State) (v : Dword) : (s.setFlags v).inhibit = s.inhibit := rfl
@[simp] theorem State.setFlags_fpuPending (s : State) (v : Dword) : (s.setFlags v).fpuPending = s.fpuPending := rfl
@[simp] theorem State.setFlags_shutdown (s : State) (v : Dword) : (s.setFlags v).shutdown = s.shutdown := rfl
@[simp] theorem State.setFlags_mem (s : State) (v : Dword) : (s.setFlags v).mem = s.mem := rfl
@[simp] theorem State.setFlags_admitted (s : State) (v : Dword) : (s.setFlags v).admitted = s.admitted := rfl
@[simp] theorem State.setFlags_text (s : State) (v : Dword) : (s.setFlags v).text = s.text := rfl
@[simp] theorem State.setFlags_freeCount (s : State) (v : Dword) : (s.setFlags v).freeCount = s.freeCount := rfl

/-! ## setMem -/

@[simp] theorem State.setMem_regs (s : State) (m : Memory) : (s.setMem m).regs = s.regs := rfl
@[simp] theorem State.setMem_pc (s : State) (m : Memory) : (s.setMem m).pc = s.pc := rfl
@[simp] theorem State.setMem_eflags (s : State) (m : Memory) : (s.setMem m).eflags = s.eflags := rfl
@[simp] theorem State.setMem_cr0 (s : State) (m : Memory) : (s.setMem m).cr0 = s.cr0 := rfl
@[simp] theorem State.setMem_mm (s : State) (m : Memory) : (s.setMem m).mm = s.mm := rfl
@[simp] theorem State.setMem_segs (s : State) (m : Memory) : (s.setMem m).segs = s.segs := rfl
@[simp] theorem State.setMem_cpl (s : State) (m : Memory) : (s.setMem m).cpl = s.cpl := rfl
@[simp] theorem State.setMem_inhibit (s : State) (m : Memory) : (s.setMem m).inhibit = s.inhibit := rfl
@[simp] theorem State.setMem_fpuPending (s : State) (m : Memory) : (s.setMem m).fpuPending = s.fpuPending := rfl
@[simp] theorem State.setMem_shutdown (s : State) (m : Memory) : (s.setMem m).shutdown = s.shutdown := rfl
@[simp] theorem State.setMem_mem (s : State) (m : Memory) : (s.setMem m).mem = m := rfl
@[simp] theorem State.setMem_admitted (s : State) (m : Memory) : (s.setMem m).admitted = s.admitted := rfl
@[simp] theorem State.setMem_text (s : State) (m : Memory) : (s.setMem m).text = s.text := rfl
@[simp] theorem State.setMem_freeCount (s : State) (m : Memory) : (s.setMem m).freeCount = s.freeCount := rfl

/-! ## useFree -/

@[simp] theorem State.useFree_regs (s : State) : (s.useFree).regs = s.regs := rfl
@[simp] theorem State.useFree_pc (s : State) : (s.useFree).pc = s.pc := rfl
@[simp] theorem State.useFree_eflags (s : State) : (s.useFree).eflags = s.eflags := rfl
@[simp] theorem State.useFree_cr0 (s : State) : (s.useFree).cr0 = s.cr0 := rfl
@[simp] theorem State.useFree_mm (s : State) : (s.useFree).mm = s.mm := rfl
@[simp] theorem State.useFree_segs (s : State) : (s.useFree).segs = s.segs := rfl
@[simp] theorem State.useFree_cpl (s : State) : (s.useFree).cpl = s.cpl := rfl
@[simp] theorem State.useFree_inhibit (s : State) : (s.useFree).inhibit = s.inhibit := rfl
@[simp] theorem State.useFree_fpuPending (s : State) : (s.useFree).fpuPending = s.fpuPending := rfl
@[simp] theorem State.useFree_shutdown (s : State) : (s.useFree).shutdown = s.shutdown := rfl
@[simp] theorem State.useFree_mem (s : State) : (s.useFree).mem = s.mem := rfl
@[simp] theorem State.useFree_admitted (s : State) : (s.useFree).admitted = s.admitted := rfl
@[simp] theorem State.useFree_text (s : State) : (s.useFree).text = s.text := rfl
@[simp] theorem State.useFree_freeCount (s : State) : (s.useFree).freeCount = s.freeCount + 1 := rfl

/-! ## setRegSz -/

@[simp] theorem State.setRegSz_pc (s : State) (sz : OpSize) (r : Reg) (v : Dword) : (s.setRegSz sz r v).pc = s.pc := by cases sz <;> rfl
@[simp] theorem State.setRegSz_eflags (s : State) (sz : OpSize) (r : Reg) (v : Dword) : (s.setRegSz sz r v).eflags = s.eflags := by cases sz <;> rfl
@[simp] theorem State.setRegSz_cr0 (s : State) (sz : OpSize) (r : Reg) (v : Dword) : (s.setRegSz sz r v).cr0 = s.cr0 := by cases sz <;> rfl
@[simp] theorem State.setRegSz_mm (s : State) (sz : OpSize) (r : Reg) (v : Dword) : (s.setRegSz sz r v).mm = s.mm := by cases sz <;> rfl
@[simp] theorem State.setRegSz_segs (s : State) (sz : OpSize) (r : Reg) (v : Dword) : (s.setRegSz sz r v).segs = s.segs := by cases sz <;> rfl
@[simp] theorem State.setRegSz_cpl (s : State) (sz : OpSize) (r : Reg) (v : Dword) : (s.setRegSz sz r v).cpl = s.cpl := by cases sz <;> rfl
@[simp] theorem State.setRegSz_inhibit (s : State) (sz : OpSize) (r : Reg) (v : Dword) : (s.setRegSz sz r v).inhibit = s.inhibit := by cases sz <;> rfl
@[simp] theorem State.setRegSz_fpuPending (s : State) (sz : OpSize) (r : Reg) (v : Dword) : (s.setRegSz sz r v).fpuPending = s.fpuPending := by cases sz <;> rfl
@[simp] theorem State.setRegSz_shutdown (s : State) (sz : OpSize) (r : Reg) (v : Dword) : (s.setRegSz sz r v).shutdown = s.shutdown := by cases sz <;> rfl
@[simp] theorem State.setRegSz_mem (s : State) (sz : OpSize) (r : Reg) (v : Dword) : (s.setRegSz sz r v).mem = s.mem := by cases sz <;> rfl
@[simp] theorem State.setRegSz_admitted (s : State) (sz : OpSize) (r : Reg) (v : Dword) : (s.setRegSz sz r v).admitted = s.admitted := by cases sz <;> rfl
@[simp] theorem State.setRegSz_text (s : State) (sz : OpSize) (r : Reg) (v : Dword) : (s.setRegSz sz r v).text = s.text := by cases sz <;> rfl
@[simp] theorem State.setRegSz_freeCount (s : State) (sz : OpSize) (r : Reg) (v : Dword) : (s.setRegSz sz r v).freeCount = s.freeCount := by cases sz <;> rfl

/-! ## setSp -/

@[simp] theorem State.setSp_pc (s : State) (v : Dword) : (s.setSp v).pc = s.pc := by unfold State.setSp; split <;> rfl
@[simp] theorem State.setSp_eflags (s : State) (v : Dword) : (s.setSp v).eflags = s.eflags := by unfold State.setSp; split <;> rfl
@[simp] theorem State.setSp_cr0 (s : State) (v : Dword) : (s.setSp v).cr0 = s.cr0 := by unfold State.setSp; split <;> rfl
@[simp] theorem State.setSp_mm (s : State) (v : Dword) : (s.setSp v).mm = s.mm := by unfold State.setSp; split <;> rfl
@[simp] theorem State.setSp_segs (s : State) (v : Dword) : (s.setSp v).segs = s.segs := by unfold State.setSp; split <;> rfl
@[simp] theorem State.setSp_cpl (s : State) (v : Dword) : (s.setSp v).cpl = s.cpl := by unfold State.setSp; split <;> rfl
@[simp] theorem State.setSp_inhibit (s : State) (v : Dword) : (s.setSp v).inhibit = s.inhibit := by unfold State.setSp; split <;> rfl
@[simp] theorem State.setSp_fpuPending (s : State) (v : Dword) : (s.setSp v).fpuPending = s.fpuPending := by unfold State.setSp; split <;> rfl
@[simp] theorem State.setSp_shutdown (s : State) (v : Dword) : (s.setSp v).shutdown = s.shutdown := by unfold State.setSp; split <;> rfl
@[simp] theorem State.setSp_mem (s : State) (v : Dword) : (s.setSp v).mem = s.mem := by unfold State.setSp; split <;> rfl
@[simp] theorem State.setSp_admitted (s : State) (v : Dword) : (s.setSp v).admitted = s.admitted := by unfold State.setSp; split <;> rfl
@[simp] theorem State.setSp_text (s : State) (v : Dword) : (s.setSp v).text = s.text := by unfold State.setSp; split <;> rfl
@[simp] theorem State.setSp_freeCount (s : State) (v : Dword) : (s.setSp v).freeCount = s.freeCount := by unfold State.setSp; split <;> rfl

/-! ## retire -/

@[simp] theorem State.retire_regs (s : State) (i : Instr) (b : Bool) (t : State) : (s.retire i b t).regs = t.regs := rfl
@[simp] theorem State.retire_pc (s : State) (i : Instr) (b : Bool) (t : State) : (s.retire i b t).pc = s.pc + BitVec.ofNat 32 (s.lengthOf i) := rfl
@[simp] theorem State.retire_eflags (s : State) (i : Instr) (b : Bool) (t : State) : (s.retire i b t).eflags = t.eflags := rfl
@[simp] theorem State.retire_cr0 (s : State) (i : Instr) (b : Bool) (t : State) : (s.retire i b t).cr0 = t.cr0 := rfl
@[simp] theorem State.retire_mm (s : State) (i : Instr) (b : Bool) (t : State) : (s.retire i b t).mm = t.mm := rfl
@[simp] theorem State.retire_segs (s : State) (i : Instr) (b : Bool) (t : State) : (s.retire i b t).segs = t.segs := rfl
@[simp] theorem State.retire_cpl (s : State) (i : Instr) (b : Bool) (t : State) : (s.retire i b t).cpl = t.cpl := rfl
@[simp] theorem State.retire_inhibit (s : State) (i : Instr) (b : Bool) (t : State) : (s.retire i b t).inhibit = b := rfl
@[simp] theorem State.retire_fpuPending (s : State) (i : Instr) (b : Bool) (t : State) : (s.retire i b t).fpuPending = t.fpuPending := rfl
@[simp] theorem State.retire_shutdown (s : State) (i : Instr) (b : Bool) (t : State) : (s.retire i b t).shutdown = t.shutdown := rfl
@[simp] theorem State.retire_mem (s : State) (i : Instr) (b : Bool) (t : State) : (s.retire i b t).mem = t.mem := rfl
@[simp] theorem State.retire_admitted (s : State) (i : Instr) (b : Bool) (t : State) : (s.retire i b t).admitted = t.admitted := rfl
@[simp] theorem State.retire_text (s : State) (i : Instr) (b : Bool) (t : State) : (s.retire i b t).text = t.text := rfl
@[simp] theorem State.retire_freeCount (s : State) (i : Instr) (b : Bool) (t : State) : (s.retire i b t).freeCount = t.freeCount := rfl

/-! ## Derived parts that an update leaves alone -/

@[simp] theorem State.setReg_mode (s : State) (r : Reg) (v : Dword) : (s.setReg r v).mode = s.mode := rfl
@[simp] theorem State.setReg_stack32 (s : State) (r : Reg) (v : Dword) : (s.setReg r v).stack32 = s.stack32 := rfl
@[simp] theorem State.setReg_zeroCode (s : State) (r : Reg) (v : Dword) : (s.setReg r v).zeroCode = s.zeroCode := rfl
@[simp] theorem State.setReg_seg (s : State) (r : Reg) (v : Dword) (S : SReg) : (s.setReg r v).seg S = s.seg S := rfl
@[simp] theorem State.setReg_getMm (s : State) (r : Reg) (v : Dword) (q : MReg) : (s.setReg r v).getMm q = s.getMm q := rfl
@[simp] theorem State.setReg16_mode (s : State) (r : Reg) (v : Word) : (s.setReg16 r v).mode = s.mode := rfl
@[simp] theorem State.setReg16_stack32 (s : State) (r : Reg) (v : Word) : (s.setReg16 r v).stack32 = s.stack32 := rfl
@[simp] theorem State.setReg16_zeroCode (s : State) (r : Reg) (v : Word) : (s.setReg16 r v).zeroCode = s.zeroCode := rfl
@[simp] theorem State.setReg16_seg (s : State) (r : Reg) (v : Word) (S : SReg) : (s.setReg16 r v).seg S = s.seg S := rfl
@[simp] theorem State.setReg16_getMm (s : State) (r : Reg) (v : Word) (q : MReg) : (s.setReg16 r v).getMm q = s.getMm q := rfl
@[simp] theorem State.setMm_mode (s : State) (r : MReg) (v : Qword) : (s.setMm r v).mode = s.mode := rfl
@[simp] theorem State.setMm_stack32 (s : State) (r : MReg) (v : Qword) : (s.setMm r v).stack32 = s.stack32 := rfl
@[simp] theorem State.setMm_zeroCode (s : State) (r : MReg) (v : Qword) : (s.setMm r v).zeroCode = s.zeroCode := rfl
@[simp] theorem State.setMm_seg (s : State) (r : MReg) (v : Qword) (S : SReg) : (s.setMm r v).seg S = s.seg S := rfl
@[simp] theorem State.setMm_reg (s : State) (r : MReg) (v : Qword) (q : Reg) : (s.setMm r v).reg q = s.reg q := rfl
@[simp] theorem State.setSeg_mode (s : State) (S : SReg) (v : Segment) : (s.setSeg S v).mode = s.mode := rfl
@[simp] theorem State.setSeg_zeroCode (s : State) (S : SReg) (v : Segment) : (s.setSeg S v).zeroCode = s.zeroCode := rfl
@[simp] theorem State.setSeg_reg (s : State) (S : SReg) (v : Segment) (q : Reg) : (s.setSeg S v).reg q = s.reg q := rfl
@[simp] theorem State.setSeg_getMm (s : State) (S : SReg) (v : Segment) (q : MReg) : (s.setSeg S v).getMm q = s.getMm q := rfl
@[simp] theorem State.setFlags_stack32 (s : State) (v : Dword) : (s.setFlags v).stack32 = s.stack32 := rfl
@[simp] theorem State.setFlags_seg (s : State) (v : Dword) (S : SReg) : (s.setFlags v).seg S = s.seg S := rfl
@[simp] theorem State.setFlags_reg (s : State) (v : Dword) (q : Reg) : (s.setFlags v).reg q = s.reg q := rfl
@[simp] theorem State.setFlags_getMm (s : State) (v : Dword) (q : MReg) : (s.setFlags v).getMm q = s.getMm q := rfl
@[simp] theorem State.setMem_mode (s : State) (m : Memory) : (s.setMem m).mode = s.mode := rfl
@[simp] theorem State.setMem_stack32 (s : State) (m : Memory) : (s.setMem m).stack32 = s.stack32 := rfl
@[simp] theorem State.setMem_zeroCode (s : State) (m : Memory) : (s.setMem m).zeroCode = s.zeroCode := rfl
@[simp] theorem State.setMem_seg (s : State) (m : Memory) (S : SReg) : (s.setMem m).seg S = s.seg S := rfl
@[simp] theorem State.setMem_reg (s : State) (m : Memory) (q : Reg) : (s.setMem m).reg q = s.reg q := rfl
@[simp] theorem State.setMem_getMm (s : State) (m : Memory) (q : MReg) : (s.setMem m).getMm q = s.getMm q := rfl
@[simp] theorem State.useFree_mode (s : State) : (s.useFree).mode = s.mode := rfl
@[simp] theorem State.useFree_stack32 (s : State) : (s.useFree).stack32 = s.stack32 := rfl
@[simp] theorem State.useFree_zeroCode (s : State) : (s.useFree).zeroCode = s.zeroCode := rfl
@[simp] theorem State.useFree_seg (s : State) (S : SReg) : (s.useFree).seg S = s.seg S := rfl
@[simp] theorem State.useFree_reg (s : State) (q : Reg) : (s.useFree).reg q = s.reg q := rfl
@[simp] theorem State.useFree_getMm (s : State) (q : MReg) : (s.useFree).getMm q = s.getMm q := rfl
@[simp] theorem State.setRegSz_mode (s : State) (sz : OpSize) (r : Reg) (v : Dword) : (s.setRegSz sz r v).mode = s.mode := by
  cases sz <;> rfl
@[simp] theorem State.setRegSz_stack32 (s : State) (sz : OpSize) (r : Reg) (v : Dword) : (s.setRegSz sz r v).stack32 = s.stack32 := by
  cases sz <;> rfl
@[simp] theorem State.setRegSz_zeroCode (s : State) (sz : OpSize) (r : Reg) (v : Dword) : (s.setRegSz sz r v).zeroCode = s.zeroCode := by
  cases sz <;> rfl
@[simp] theorem State.setRegSz_seg (s : State) (sz : OpSize) (r : Reg) (v : Dword) (S : SReg) : (s.setRegSz sz r v).seg S = s.seg S := by
  cases sz <;> rfl
@[simp] theorem State.setRegSz_getMm (s : State) (sz : OpSize) (r : Reg) (v : Dword) (q : MReg) : (s.setRegSz sz r v).getMm q = s.getMm q := by
  cases sz <;> rfl
@[simp] theorem State.setSp_mode (s : State) (v : Dword) : (s.setSp v).mode = s.mode := by
  unfold State.setSp
  split <;> rfl
@[simp] theorem State.setSp_stack32 (s : State) (v : Dword) : (s.setSp v).stack32 = s.stack32 := by
  unfold State.setSp
  split <;> rfl
@[simp] theorem State.setSp_zeroCode (s : State) (v : Dword) : (s.setSp v).zeroCode = s.zeroCode := by
  unfold State.setSp
  split <;> rfl
@[simp] theorem State.setSp_seg (s : State) (v : Dword) (S : SReg) : (s.setSp v).seg S = s.seg S := by
  unfold State.setSp
  split <;> rfl
@[simp] theorem State.setSp_getMm (s : State) (v : Dword) (q : MReg) : (s.setSp v).getMm q = s.getMm q := by
  unfold State.setSp
  split <;> rfl

end Sys2Proof.Machine
end

