-- ==== Sys2Proof/Laws/Registers.lean ====
section
/-! SUPPORT. Reading a register after writing one: the three register files, and the names and widths over them. -/

namespace Sys2Proof.Machine

/-- The low half of a doubleword made of two words. -/
theorem low_append (a b : Word) : (a ++ b : Dword).extractLsb' 0 16 = b := by
  apply BitVec.eq_of_getLsbD_eq
  intro i hi
  have h := BitVec.getLsbD_append (x := a) (y := b) (i := i)
  simp only [BitVec.getLsbD_extractLsb', hi, Nat.zero_add, decide_true, Bool.true_and]
  exact h.trans (by simp [hi])

/-- The high half of a doubleword made of two words. -/
theorem high_append (a b : Word) : (a ++ b : Dword).extractLsb' 16 16 = a := by
  apply BitVec.eq_of_getLsbD_eq
  intro i hi
  have h := BitVec.getLsbD_append (x := a) (y := b) (i := 16 + i)
  simp only [BitVec.getLsbD_extractLsb', hi, decide_true, Bool.true_and]
  exact h.trans (by simp)

@[simp] theorem Regs.get_set (g : Regs) (r r' : Reg) (v : Dword) :
    (g.set r v).get r' = if r' = r then v else g.get r' := by
  cases r <;> cases r' <;> rfl

@[simp] theorem MmRegs.get_set (g : MmRegs) (r r' : MReg) (v : Qword) :
    (g.set r v).get r' = if r' = r then v else g.get r' := by
  cases r <;> cases r' <;> rfl

@[simp] theorem Segs.get_set (g : Segs) (S S' : SReg) (v : Segment) :
    (g.set S v).get S' = if S' = S then v else g.get S' := by
  cases S <;> cases S' <;> rfl

/-- Two register files that agree on every register are equal. -/
theorem Regs.ext_get {g h : Regs} (e : ∀ r, g.get r = h.get r) : g = h := by
  cases g; cases h
  have h0 := e .eax; have h1 := e .ecx; have h2 := e .edx; have h3 := e .ebx
  have h4 := e .esp; have h5 := e .ebp; have h6 := e .esi; have h7 := e .edi
  simp only [Regs.get] at h0 h1 h2 h3 h4 h5 h6 h7
  simp_all

@[simp] theorem State.reg_setReg (s : State) (r r' : Reg) (v : Dword) :
    (s.setReg r v).reg r' = if r' = r then v else s.reg r' := by
  simp [State.reg]

@[simp] theorem State.getMm_setMm (s : State) (r r' : MReg) (v : Qword) :
    (s.setMm r v).getMm r' = if r' = r then v else s.getMm r' := by
  simp [State.getMm]

@[simp] theorem State.seg_setSeg (s : State) (S S' : SReg) (v : Segment) :
    (s.setSeg S v).seg S' = if S' = S then v else s.seg S' := by
  simp [State.seg]

/-- A write to a 16-bit name replaces bits 15:0 of its register. -/
@[simp] theorem State.reg_setReg16 (s : State) (r r' : Reg) (v : Word) :
    (s.setReg16 r v).reg r' = if r' = r then (s.reg r).extractLsb' 16 16 ++ v else s.reg r' := by
  simp [State.setReg16]

/-- A write to a 16-bit name is read back, and no other register changes. -/
@[simp] theorem State.reg16_setReg16 (s : State) (r r' : Reg) (v : Word) :
    (s.setReg16 r v).reg16 r' = if r' = r then v else s.reg16 r' := by
  by_cases h : r' = r
  · subst h
    simp only [State.reg16, State.reg_setReg16, if_true]
    exact low_append _ _
  · simp [State.reg16, h]

/-- The stack pointer after it is written: on a 16-bit stack its low 16 bits. -/
theorem State.sp_setSp (s : State) (v : Dword) :
    (s.setSp v).sp = if s.stack32 then v else (v.extractLsb' 0 16).setWidth 32 := by
  have hst : (s.setSp v).stack32 = s.stack32 := State.setSp_stack32 s v
  by_cases h : s.stack32
  · simp only [State.sp, hst, h, if_true]
    simp [State.setSp, h]
  · simp only [State.sp, hst, h]
    simp [State.setSp, h]

/-- Writing the stack pointer changes no register but ESP. -/
theorem State.reg_setSp_of_ne (s : State) (v : Dword) {r : Reg} (h : r ≠ .esp) : (s.setSp v).reg r = s.reg r := by
  unfold State.setSp
  split <;> simp [h]

/-- Bits 31:16 of ESP survive a write of the stack pointer on a 16-bit stack. -/
theorem State.esp_high_setSp (s : State) (v : Dword) (h : s.stack32 = false) :
    ((s.setSp v).reg .esp).extractLsb' 16 16 = (s.reg .esp).extractLsb' 16 16 := by
  simp only [State.setSp, h, Bool.false_eq_true, if_false, State.reg_setReg16, if_true]
  exact high_append _ _

end Sys2Proof.Machine
end

