-- ==== Sys2Proof/Laws/Access.lean ====
section
/-! SUPPORT. What the access procedure, a read, a write, a push, a pop and a segment load can do. -/

namespace Sys2Proof.Machine

/-- A sequence of two steps answers a value when both do. -/
theorem Res.bind_ok {α β : Type} {x : Res α} {f : α → Res β} {b : β} :
    (x >>= f) = .ok b ↔ ∃ a, x = .ok a ∧ f a = .ok b := by
  cases x <;> simp [bind, Except.bind]

/-- A sequence of two steps stops where the first stops, or where the second does. -/
theorem Res.bind_error {α β : Type} {x : Res α} {f : α → Res β} {e : Stop} :
    (x >>= f) = .error e ↔ x = .error e ∨ ∃ a, x = .ok a ∧ f a = .error e := by
  cases x <;> simp [bind, Except.bind]

/-! ## The access procedure -/

/-- The segment checks raise and do nothing else. -/
theorem segmentCheck_error {who : Requester} {write : Bool} {S : SReg} {off : Dword} {n : Nat} {s : State} {e : Stop}
    (h : segmentCheck who write S off n s = .error e) : ∃ x, e = .raise x := by
  simp only [segmentCheck] at h
  repeat' split at h
  all_goals first | exact ⟨_, (Except.error.inj h).symm⟩ | cases h

/-- In real-address mode the translation is the identity on consecutive addresses. -/
theorem translateBytes_real {write : Bool} {s : State} (hm : s.mode = .real) (lin : Dword) (n : Nat) :
    translateBytes write s lin n = .ok ((List.range n).map fun k => (lin + BitVec.ofNat 32 k).toNat) := by
  induction n generalizing lin with
  | zero => rfl
  | succ n ih =>
    simp only [translateBytes, translateByte, hm, ih, List.range_succ_eq_map, List.map_cons, List.map_map]
    simp only [bind, Except.bind, Except.ok.injEq, List.cons.injEq]
    refine ⟨by simp, List.map_congr_left fun k _ => ?_⟩
    simp only [Function.comp]
    congr 1
    rw [BitVec.add_assoc]
    congr 1
    apply BitVec.eq_of_toNat_eq
    simp [BitVec.toNat_add, BitVec.toNat_ofNat, Nat.add_comm]

/-- A translation gives one physical address for each byte. -/
theorem translateBytes_length {write : Bool} {s : State} {lin : Dword} {n : Nat} {ps : List Nat}
    (h : translateBytes write s lin n = .ok ps) : ps.length = n := by
  induction n generalizing lin ps with
  | zero => cases h; rfl
  | succ n ih =>
    obtain ⟨p, -, h⟩ := Res.bind_ok.1 h
    obtain ⟨qs, hq, h⟩ := Res.bind_ok.1 h
    cases h
    simp [ih hq]

/-- The three bits of a page-fault code (20_memory.md R56). -/
theorem pageFaultWord_bits (c : Config.PageFaultCode) :
    (pageFaultWord c).toNat < 8 ∧ (pageFaultWord c).getLsbD 0 = c.present ∧ (pageFaultWord c).getLsbD 1 = c.write ∧
      (pageFaultWord c).getLsbD 2 = c.user := by
  obtain ⟨p, w, u⟩ := c
  revert p w u; decide

/-- The translation of a byte stops when `Translate` answers a page fault, and in no other way; the code tells the access. -/
theorem translateByte_error {write : Bool} {s : State} {lin : Dword} {e : Stop} :
    translateByte write s lin = .error e ↔
      s.mode ≠ .real ∧ ∃ present, Config.translate s.mem lin write (s.cpl = 3) = .pageFault present ∧
        e = .raise (.pf lin (pageFaultWord { present := present, write := write, user := s.cpl = 3 })) := by
  unfold translateByte
  cases s.mode <;> cases Config.translate s.mem lin write (s.cpl = 3) <;> simp [eq_comm]

/-- A translation that stops raises a page fault outside real-address mode. -/
theorem translateBytes_error {write : Bool} {s : State} {lin : Dword} {n : Nat} {e : Stop}
    (h : translateBytes write s lin n = .error e) : s.mode ≠ .real ∧ ∃ a c, e = .raise (.pf a c) := by
  induction n generalizing lin with
  | zero => cases h
  | succ n ih =>
    rcases Res.bind_error.1 h with h | ⟨p, -, h⟩
    · obtain ⟨hm, present, -, he⟩ := translateByte_error.1 h
      exact ⟨hm, _, _, he⟩
    · rcases Res.bind_error.1 h with h | ⟨qs, -, h⟩
      · exact ih h
      · cases h

/-- The place check passes when every byte is in the modelled memory and a store leaves the program text alone. -/
theorem placeCheck_ok {write : Bool} {s : State} {ps : List Nat} :
    placeCheck write s ps = .ok () ↔
      (∀ p ∈ ps, inRegions s.admitted p = true) ∧ (write = true → ∀ p ∈ ps, inRegions s.text p = false) := by
  unfold placeCheck
  split
  · rename_i p hp
    have h1 := List.find?_some hp
    have h2 := List.mem_of_find?_eq_some hp
    simp only [reduceCtorEq, false_iff, not_and]
    intro hall
    have := hall p h2
    simp_all
  · rename_i hp
    have hall : ∀ p ∈ ps, inRegions s.admitted p = true := by simpa [List.find?_eq_none] using hp
    split
    · rename_i p hq
      have h1 := List.find?_some hq
      have h2 := List.mem_of_find?_eq_some hq
      simp only [reduceCtorEq, false_iff, not_and, forall_const]
      intro _ ht
      have := ht p h2
      simp_all
    · rename_i hq
      simp only [true_iff]
      exact ⟨hall, fun _ => by simpa [List.find?_eq_none] using hq⟩
    · simpa using hall

/-- An access that stops stops at the first check that fails, in the order of 20_memory.md R54. -/
theorem access_error {who : Requester} {write : Bool} {S : SReg} {off : Dword} {n : Nat} {s : State} {e : Stop} :
    access who write S off n s = .error e ↔
      segmentCheck who write S off n s = .error e ∨
      (segmentCheck who write S off n s = .ok () ∧
        (translateBytes write s (s.linear S off) n = .error e ∨
        ∃ ps, translateBytes write s (s.linear S off) n = .ok ps ∧
          (alignCheck (s.linear S off) n s = .error e ∨
          (alignCheck (s.linear S off) n s = .ok () ∧ placeCheck write s ps = .error e)))) := by
  have hu : ∀ {p : Unit → Prop}, (∃ x, p x) ↔ p () := ⟨fun ⟨(), h⟩ => h, fun h => ⟨_, h⟩⟩
  unfold access
  simp [Res.bind_error, hu]

/-- An access that is made passed every check, and has one admitted address for each byte. -/
theorem access_ok {who : Requester} {write : Bool} {S : SReg} {off : Dword} {n : Nat} {s : State} {ps : List Nat} :
    access who write S off n s = .ok ps ↔
      segmentCheck who write S off n s = .ok () ∧ translateBytes write s (s.linear S off) n = .ok ps ∧
        alignCheck (s.linear S off) n s = .ok () ∧ placeCheck write s ps = .ok () := by
  unfold access
  simp only [Res.bind_ok]
  constructor
  · rintro ⟨⟨⟩, h1, qs, h2, ⟨⟩, h3, ⟨⟩, h4, h5⟩
    cases h5
    exact ⟨h1, h2, h3, h4⟩
  · rintro ⟨h1, h2, h3, h4⟩
    exact ⟨_, h1, _, h2, _, h3, _, h4, rfl⟩

/-- An access has as many addresses as bytes. -/
theorem access_length {who : Requester} {write : Bool} {S : SReg} {off : Dword} {n : Nat} {s : State} {ps : List Nat}
    (h : access who write S off n s = .ok ps) : ps.length = n :=
  translateBytes_length (access_ok.1 h).2.1

/-- An access never shuts the processor down. -/
theorem access_ne_shutdown {who : Requester} {write : Bool} {S : SReg} {off : Dword} {n : Nat} {s : State} :
    access who write S off n s ≠ .error .shutdown := by
  intro h
  rcases Res.bind_error.1 h with h | ⟨_, -, h⟩
  · obtain ⟨x, hx⟩ := segmentCheck_error h
    cases hx
  rcases Res.bind_error.1 h with h | ⟨_, -, h⟩
  · obtain ⟨-, a, c, hx⟩ := translateBytes_error h
    cases hx
  rcases Res.bind_error.1 h with h | ⟨_, -, h⟩
  · unfold alignCheck at h
    split at h <;> cases h
  rcases Res.bind_error.1 h with h | ⟨_, -, h⟩
  · unfold placeCheck at h
    repeat' split at h
    all_goals cases h
  · cases h

/-- An access depends on the segment registers, the mode, the level, the memory and the control flags alone. -/
theorem access_congr {who : Requester} {write : Bool} {S : SReg} {off : Dword} {n : Nat} {s t : State}
    (hs : t.segs = s.segs) (hc : t.cr0 = s.cr0) (hf : t.eflags = s.eflags) (hl : t.cpl = s.cpl) (hm : t.mem = s.mem)
    (ha : t.admitted = s.admitted) (hx : t.text = s.text) :
    access who write S off n t = access who write S off n s := by
  have hseg : ∀ S, t.seg S = s.seg S := fun S => by simp only [State.seg, hs]
  have hmode : t.mode = s.mode := by simp only [State.mode, hc, hf]
  have hzero : t.zeroCode = s.zeroCode := by simp only [State.zeroCode, hmode]
  have htb : ∀ l, translateByte write t l = translateByte write s l := fun l => by
    simp only [translateByte, hmode, hm, hl]
  have htr : ∀ m l, translateBytes write t l m = translateBytes write s l m := by
    intro m
    induction m with
    | zero => intro l; rfl
    | succ m ih => intro l; simp only [translateBytes, htb, ih]
  have h1 : segmentCheck who write S off n t = segmentCheck who write S off n s := by
    simp only [segmentCheck, limitExn, hseg, hmode, hzero]
  have h2 : ∀ l, alignCheck l n t = alignCheck l n s := fun l => by simp only [alignCheck, hmode, hc, hf, hl]
  have h3 : ∀ ps, placeCheck write t ps = placeCheck write s ps := fun ps => by simp only [placeCheck, ha, hx]
  have h4 : t.linear S off = s.linear S off := by simp only [State.linear, hseg]
  simp only [access, h1, h2, h3, h4, htr]

/-- A read answers the little-endian value of the bytes at the addresses of its access. -/
theorem memRead_ok {who : Requester} {S : SReg} {off : Dword} {n : Nat} {s : State} {v : Qword} :
    memRead who S off n s = .ok v ↔
      ∃ ps, access who false S off n s = .ok ps ∧ v = littleEndian (ps.map s.mem.read) := by
  simp only [memRead, Res.bind_ok, Except.ok.injEq]
  exact exists_congr fun _ => and_congr_right fun _ => eq_comm

/-- A read never shuts the processor down. -/
theorem memRead_ne_shutdown {who : Requester} {S : SReg} {off : Dword} {n : Nat} {s : State} :
    memRead who S off n s ≠ .error .shutdown := by
  intro h
  rcases Res.bind_error.1 h with h | ⟨_, -, h⟩
  · exact access_ne_shutdown h
  · cases h

/-- A write changes memory alone, at the addresses of its access. -/
theorem memWrite_ok {S : SReg} {off : Dword} {n : Nat} {v : Qword} {s t : State} :
    memWrite S off n v s = .ok t ↔
      ∃ ps, access .integer true S off n s = .ok ps ∧ t = s.setMem (s.mem.store ps (leBytes n v)) := by
  simp only [memWrite, Res.bind_ok, Except.ok.injEq]
  exact exists_congr fun _ => and_congr_right fun _ => eq_comm

/-- A write leaves the bytes of the program text as they are. -/
theorem memWrite_text {S : SReg} {off : Dword} {n : Nat} {v : Qword} {s t : State} (h : memWrite S off n v s = .ok t)
    {p : Nat} (hp : inRegions s.text p = true) : t.mem.read p = s.mem.read p := by
  obtain ⟨ps, ha, rfl⟩ := memWrite_ok.1 h
  have hpl := (placeCheck_ok.1 (access_ok.1 ha).2.2.2).2 rfl
  refine Memory.read_store_of_not_mem _ _ _ _ fun hm => ?_
  have := hpl p hm
  simp_all

/-- A write leaves every byte outside its access as it is. -/
theorem memWrite_frame {S : SReg} {off : Dword} {n : Nat} {v : Qword} {s t : State} {ps : List Nat}
    (h : memWrite S off n v s = .ok t) (ha : access .integer true S off n s = .ok ps) {p : Nat} (hp : p ∉ ps) :
    t.mem.read p = s.mem.read p := by
  obtain ⟨qs, hq, rfl⟩ := memWrite_ok.1 h
  cases ha.symm.trans hq
  exact Memory.read_store_of_not_mem _ _ _ _ hp

/-- A write keeps the canonical form of memory. -/
theorem memWrite_wf {S : SReg} {off : Dword} {n : Nat} {v : Qword} {s t : State} (h : memWrite S off n v s = .ok t)
    (hw : Memory.wf s.mem) : Memory.wf t.mem := by
  obtain ⟨ps, -, rfl⟩ := memWrite_ok.1 h
  exact Memory.wf_store _ _ hw

/-! ## The stack -/

/-- A pop answers the item at the top of the stack, and moves the stack pointer alone. -/
theorem pop_ok {sz : OpSize} {s t : State} {v : Dword} :
    pop sz s = .ok (v, t) ↔
      ∃ q, memRead .integer .ss s.sp (opBytes sz) s = .ok q ∧ v = q.setWidth 32 ∧
        t = s.setSp (s.spPlus (opBytes sz)) := by
  simp only [pop, Res.bind_ok, Except.ok.injEq, Prod.mk.injEq]
  exact exists_congr fun _ => and_congr_right fun _ => and_congr eq_comm eq_comm

/-- A push stores the value at the new top of the stack and moves the stack pointer there. -/
theorem push_ok {sz : OpSize} {v : Dword} {s t : State} :
    push sz v s = .ok t ↔
      ¬(s.mode = .real ∧ s.sp = 1) ∧
        ∃ u, memWrite .ss (s.spMinus (opBytes sz)) (opBytes sz) (v.setWidth 64) s = .ok u ∧
          t = u.setSp (s.spMinus (opBytes sz)) := by
  unfold push
  split
  · simp [*]
  · rename_i hc
    simp only [hc, not_false_eq_true, true_and, Res.bind_ok, Except.ok.injEq]
    exact exists_congr fun _ => and_congr_right fun _ => eq_comm

/-- A push shuts the processor down exactly in real-address mode with a stack pointer of 1. -/
theorem push_shutdown {sz : OpSize} {v : Dword} {s : State} :
    push sz v s = .error .shutdown ↔ s.mode = .real ∧ s.sp = 1 := by
  unfold push
  split
  · simp [*]
  · simp only [*, iff_false]
    intro h
    rcases Res.bind_error.1 h with h | ⟨_, -, h⟩
    · rcases Res.bind_error.1 h with h | ⟨_, -, h⟩
      · exact access_ne_shutdown h
      · cases h
    · cases h

/-- A pop raises what its read raises. -/
theorem pop_raise {sz : OpSize} {s : State} {e : Exn} :
    pop sz s = .error (.raise e) ↔ memRead .integer .ss s.sp (opBytes sz) s = .error (.raise e) := by
  unfold pop
  rw [Res.bind_error]
  simp

/-- A push raises what the check of its store raises, unless it shuts the processor down. -/
theorem push_raise {sz : OpSize} {v : Dword} {s : State} {e : Exn} :
    push sz v s = .error (.raise e) ↔ ¬(s.mode = .real ∧ s.sp = 1) ∧
      access .integer true .ss (s.spMinus (opBytes sz)) (opBytes sz) s = .error (.raise e) := by
  unfold push memWrite
  split
  · simp [*]
  · simp only [Res.bind_error, not_false_eq_true, true_and, *]
    simp

/-- What pops into registers leave alone: everything but the registers. -/
theorem popRegs_frame {sz : OpSize} {rs : List Reg} {s t : State} (h : popRegs sz rs s = .ok t) :
    t = { s with regs := t.regs } := by
  induction rs generalizing s with
  | nil => cases h; rfl
  | cons r rs ih =>
    obtain ⟨⟨v, u⟩, hp, h⟩ := Res.bind_ok.1 h
    obtain ⟨q, -, -, rfl⟩ := pop_ok.1 hp
    have := ih h
    rw [this]
    simp

/-- A list of pushes is the pushes of its beginning and then those of its end. -/
theorem pushList_append {sz : OpSize} (vs ws : List Dword) (s : State) :
    pushList sz (vs ++ ws) s = (pushList sz vs s >>= pushList sz ws) := by
  induction vs generalizing s with
  | nil => rfl
  | cons v vs ih =>
    simp only [List.cons_append, pushList]
    cases push sz v s with
    | error e => rfl
    | ok t => exact ih t

/-- What pushes leave alone: everything but the registers and memory. -/
theorem pushList_frame {sz : OpSize} {vs : List Dword} {s t : State} (h : pushList sz vs s = .ok t) :
    t = { s with regs := t.regs, mem := t.mem } := by
  induction vs generalizing s with
  | nil => cases h; rfl
  | cons v vs ih =>
    obtain ⟨u, hp, h⟩ := Res.bind_ok.1 h
    obtain ⟨-, w, hw, rfl⟩ := push_ok.1 hp
    obtain ⟨ps, -, rfl⟩ := memWrite_ok.1 hw
    have := ih h
    rw [this]
    simp

/-- Pushes leave every register but ESP alone. -/
theorem pushList_reg {sz : OpSize} {vs : List Dword} {s t : State} (h : pushList sz vs s = .ok t) {r : Reg}
    (hr : r ≠ .esp) : t.reg r = s.reg r := by
  induction vs generalizing s with
  | nil => cases h; rfl
  | cons v vs ih =>
    obtain ⟨u, hp, h⟩ := Res.bind_ok.1 h
    obtain ⟨-, w, hw, rfl⟩ := push_ok.1 hp
    obtain ⟨ps, -, rfl⟩ := memWrite_ok.1 hw
    rw [ih h, State.reg_setSp_of_ne _ _ hr]
    rfl

/-- Pushes keep the canonical form of memory. -/
theorem pushList_wf {sz : OpSize} {vs : List Dword} {s t : State} (h : pushList sz vs s = .ok t)
    (hw : Memory.wf s.mem) : Memory.wf t.mem := by
  induction vs generalizing s with
  | nil => cases h; exact hw
  | cons v vs ih =>
    obtain ⟨u, hp, h⟩ := Res.bind_ok.1 h
    obtain ⟨-, w, hm, rfl⟩ := push_ok.1 hp
    exact ih h (by simpa using memWrite_wf hm hw)

/-! ## Segment loads -/

/-- A load of SS in protected mode writes SS alone, with a segment that is not null. -/
theorem loadStackSeg_ok {dd : Config.DescLookup} {sel : Word} {s t : State} (h : loadStackSeg dd sel s = .ok t) :
    ∃ d, dd = .found d ∧ t = s.setSeg .ss (loaded sel d) := by
  unfold loadStackSeg at h
  repeat' split at h
  all_goals first | exact ⟨_, rfl, (Except.ok.inj h).symm⟩ | cases h

/-- A load of a data segment register in protected mode writes that register alone. -/
theorem loadDataSeg_ok {dd : Config.DescLookup} {S : SReg} {sel : Word} {s t : State}
    (h : loadDataSeg dd S sel s = .ok t) : ∃ x, t = s.setSeg S x := by
  unfold loadDataSeg at h
  repeat' split at h
  all_goals first | exact ⟨_, (Except.ok.inj h).symm⟩ | cases h

/-- A segment load writes the named register alone. Outside protected mode, and for SS, it is not null after it. -/
theorem loadSeg_ok {S : SReg} {sel : Word} {s t : State} (h : loadSeg S sel s = .ok t) :
    ∃ x, t = s.setSeg S x ∧ (s.mode ≠ .prot ∨ S = .ss → x.hid.null = false) := by
  unfold loadSeg at h
  split at h
  · rename_i hm
    split at h
    · obtain ⟨d, -, rfl⟩ := loadStackSeg_ok h
      exact ⟨_, rfl, fun _ => rfl⟩
    all_goals
      obtain ⟨x, rfl⟩ := loadDataSeg_ok h
      exact ⟨x, rfl, by simp [hm]⟩
  all_goals
    cases h
    exact ⟨_, rfl, fun _ => rfl⟩

/-! ## How an instruction ends -/

/-- An instruction ends with a next state when it completes, or when it shuts the processor down. -/
theorem settle_next {i : Instr} {b : Bool} {s t : State} {r : Res State} :
    settle i b s r = .next t ↔
      (∃ u, r = .ok u ∧ t = s.retire i b u) ∨ (r = .error .shutdown ∧ t = { s with shutdown := true }) := by
  unfold settle takeException
  split <;> simp_all [eq_comm]

/-- An instruction ends with an exception when its rule raises it; the state carried is the one before, with the
interrupt inhibit cleared. -/
theorem settle_fault {i : Instr} {b : Bool} {s : State} {r : Res State} {f : Fault} :
    settle i b s r = .fault f ↔ ∃ e, r = .error (.raise e) ∧ f = .exception e { s with inhibit := false } := by
  unfold settle takeException
  split <;> simp_all [eq_comm]

end Sys2Proof.Machine
end

