-- ==== Sys2Proof/Laws/Decode.lean ====
section
/-! SUPPORT. Numbers, fields and little-endian fields of the decoder and the encoder: each reads back what the other
wrote. -/

namespace Sys2Proof

@[simp] theorem Reg.ofBits_toBits (r : Reg) : Reg.ofBits r.toBits = r := by cases r <;> rfl
@[simp] theorem Reg.toBits_ofBits (b : BitVec 3) : (Reg.ofBits b).toBits = b := by revert b; decide
@[simp] theorem MReg.ofBits_toBits (r : MReg) : MReg.ofBits r.toBits = r := by cases r <;> rfl
@[simp] theorem MReg.toBits_ofBits (b : BitVec 3) : (MReg.ofBits b).toBits = b := by revert b; decide
@[simp] theorem Base16.ofBits_toBits (r : Base16) : Base16.ofBits r.toBits = r := by cases r <;> rfl
@[simp] theorem Base16.toBits_ofBits (b : BitVec 3) : (Base16.ofBits b).toBits = b := by revert b; decide

@[simp] theorem modField_fieldByte (m : BitVec 2) (r b : BitVec 3) : modField (fieldByte m r b) = m := by
  revert m r b; decide
@[simp] theorem regField_fieldByte (m : BitVec 2) (r b : BitVec 3) : regField (fieldByte m r b) = r := by
  revert m r b; decide
@[simp] theorem rmField_fieldByte (m : BitVec 2) (r b : BitVec 3) : rmField (fieldByte m r b) = b := by
  revert m r b; decide

/-- A word is the concatenation of its two bytes. -/
theorem append_bytes16 (v : Word) : (v.extractLsb' 8 8 ++ v.extractLsb' 0 8 : BitVec (8 + 8)) = v := by
  apply BitVec.eq_of_getLsbD_eq
  intro i hi
  simp only [BitVec.getLsbD_append, BitVec.getLsbD_extractLsb']
  split
  · simp [*]
  · rw [show 8 + (i - 8) = i by omega]
    simp only [Bool.and_eq_right_iff_imp, decide_eq_true_eq]
    omega

/-- A doubleword is the concatenation of its four bytes. -/
theorem append_bytes32 (v : Dword) :
    (v.extractLsb' 24 8 ++ v.extractLsb' 16 8 ++ v.extractLsb' 8 8 ++ v.extractLsb' 0 8 : BitVec (8 + 8 + 8 + 8)) = v := by
  apply BitVec.eq_of_getLsbD_eq
  intro i hi
  simp only [BitVec.getLsbD_append, BitVec.getLsbD_extractLsb']
  have h : i < 8 ∨ (8 ≤ i ∧ i < 16) ∨ (16 ≤ i ∧ i < 24) ∨ (24 ≤ i ∧ i < 32) := by omega
  rcases h with h | ⟨h1, h2⟩ | ⟨h1, h2⟩ | ⟨h1, h2⟩
  · simp [h]
  · rw [if_neg (by omega), if_pos (by omega), show 8 + (i - 8) = i by omega]
    simp; omega
  · rw [if_neg (by omega), if_neg (by omega), if_pos (by omega), show 16 + (i - 8 - 8) = i by omega]
    simp; omega
  · rw [if_neg (by omega), if_neg (by omega), if_neg (by omega), show 24 + (i - 8 - 8 - 8) = i by omega]
    simp; omega

@[simp] theorem take8_cons (b : Byte) (bs : List Byte) : take8 (b :: bs) = .ok (b, bs) := rfl

@[simp] theorem take16_bytes16 (v : Word) (bs : List Byte) : take16 (bytes16 v ++ bs) = .ok (v, bs) := by
  simp only [bytes16, List.cons_append, List.nil_append, take16]
  exact congrArg (fun w => Except.ok (w, bs)) (append_bytes16 v)

@[simp] theorem take32_bytes32 (v : Dword) (bs : List Byte) : take32 (bytes32 v ++ bs) = .ok (v, bs) := by
  simp only [bytes32, List.cons_append, List.nil_append, take32]
  exact congrArg (fun w => Except.ok (w, bs)) (append_bytes32 v)

@[simp] theorem bytes16_length (v : Word) : (bytes16 v).length = 2 := rfl
@[simp] theorem bytes32_length (v : Dword) : (bytes32 v).length = 4 := rfl

end Sys2Proof
end

