-- ==== Sys2Proof/Laws/Template.lean ====
section
/-! SUPPORT. What the templates of the MMX instructions and the shared rules of POP and PUSH can do. -/

namespace Sys2Proof.Machine

/-! ## MMX templates -/

/-- The availability checks pass when EM and TS are both clear. -/
theorem mmxEnabled_ok {s : State} : mmxEnabled s = .ok () ↔ s.cr0.em = false ∧ s.cr0.ts = false := by
  unfold mmxEnabled
  repeat' split
  all_goals simp_all

/-- The availability checks never shut the processor down. -/
theorem mmxEnabled_ne_shutdown {s : State} : mmxEnabled s ≠ .error .shutdown := by
  unfold mmxEnabled
  repeat' split
  all_goals simp

/-- The second operand is had when the checks pass and the operand itself can be read. -/
theorem mmxSource_ok {src : MmSrc} {n : Nat} {s : State} {v : Qword} :
    mmxSource src n s = .ok v ↔ mmxAvailable s = true ∧ mmxOperand src n s = .ok v := by
  unfold mmxSource
  simp only [Res.bind_ok, mmxAvailable, Bool.and_eq_true, Bool.not_eq_true']
  constructor
  · rintro ⟨⟨⟩, he, h⟩
    obtain ⟨h1, h2⟩ := mmxEnabled_ok.1 he
    split at h
    · exact ⟨⟨⟨h1, h2⟩, ‹_›⟩, h⟩
    all_goals cases h
  · rintro ⟨⟨⟨h1, h2⟩, h3⟩, h⟩
    refine ⟨(), mmxEnabled_ok.2 ⟨h1, h2⟩, ?_⟩
    simp only [h3, h]

/-- When the availability checks pass, the source is the operand, or what stops its read (40_mmx_common.md R121, R122). -/
theorem mmxSource_available {src : MmSrc} {n : Nat} {s : State} (he : s.cr0.em = false) (ht : s.cr0.ts = false)
    (hf : s.fpuPending = false) : mmxSource src n s = mmxOperand src n s := by
  unfold mmxSource
  rw [mmxEnabled_ok.2 ⟨he, ht⟩, hf]
  rfl

/-- An operand read never shuts the processor down. -/
theorem mmxOperand_ne_shutdown {src : MmSrc} {n : Nat} {s : State} : mmxOperand src n s ≠ .error .shutdown := by
  unfold mmxOperand
  split
  · simp
  · exact memRead_ne_shutdown

/-- The second operand never shuts the processor down. -/
theorem mmxSource_ne_shutdown {src : MmSrc} {n : Nat} {s : State} : mmxSource src n s ≠ .error .shutdown := by
  intro h
  rcases Res.bind_error.1 h with h | ⟨_, -, h⟩
  · exact mmxEnabled_ne_shutdown h
  · split at h
    · exact mmxOperand_ne_shutdown h
    all_goals simp at h

/-- An MMX instruction completes exactly when it is available and its operand can be read; it then writes its
destination register and nothing else but the program counter and the interrupt inhibit. -/
theorem mmxRun_next {i : Instr} {dst : MReg} {src : MmSrc} {n : Nat} {f : Qword → Qword → Qword} {s t : State} :
    mmxRun i dst src n f s = .next t ↔
      ∃ v, mmxAvailable s = true ∧ mmxOperand src n s = .ok v ∧
        t = s.retire i false (s.setMm dst (f (s.getMm dst) v)) := by
  unfold mmxRun
  rw [settle_next]
  constructor
  · rintro (⟨u, h, rfl⟩ | ⟨h, -⟩)
    · obtain ⟨v, hv, h⟩ := Res.bind_ok.1 h
      cases h
      obtain ⟨h1, h2⟩ := mmxSource_ok.1 hv
      exact ⟨v, h1, h2, rfl⟩
    · rcases Res.bind_error.1 h with h | ⟨_, -, h⟩
      · exact absurd h mmxSource_ne_shutdown
      · cases h
  · rintro ⟨v, h1, h2, rfl⟩
    exact .inl ⟨_, Res.bind_ok.2 ⟨v, mmxSource_ok.2 ⟨h1, h2⟩, rfl⟩, rfl⟩

/-- An available MMX instruction raises what the read of its operand raises. -/
theorem mmxRun_raise {i : Instr} {dst : MReg} {src : MmSrc} {n : Nat} {f : Qword → Qword → Qword} {s : State} {e : Exn}
    (ha : mmxAvailable s = true) (h : mmxOperand src n s = .error (.raise e)) :
    mmxRun i dst src n f s = takeException e s := by
  simp only [mmxAvailable, Bool.and_eq_true, Bool.not_eq_true'] at ha
  unfold mmxRun
  rw [mmxSource_available ha.1.1 ha.1.2 ha.2, h]
  rfl

/-- A shift with an imm8 count completes exactly when it is available. -/
theorem mmxRunImm_next {i : Instr} {dst : MReg} {c : Byte} {f : Qword → Nat → Qword} {s t : State} :
    mmxRunImm i dst c f s = .next t ↔
      mmxAvailable s = true ∧ t = s.retire i false (s.setMm dst (f (s.getMm dst) c.toNat)) := by
  unfold mmxRunImm
  rw [settle_next]
  simp only [Res.bind_ok, Res.bind_error, mmxAvailable, Bool.and_eq_true, Bool.not_eq_true']
  constructor
  · rintro (⟨u, ⟨⟨⟩, he, h⟩, rfl⟩ | ⟨h | ⟨_, -, h⟩, -⟩)
    · obtain ⟨h1, h2⟩ := mmxEnabled_ok.1 he
      split at h
      · cases h
      · rename_i hp
        cases h
        exact ⟨⟨⟨h1, h2⟩, by simpa using hp⟩, rfl⟩
    · exact absurd h mmxEnabled_ne_shutdown
    · split at h <;> cases h
  · rintro ⟨⟨⟨h1, h2⟩, h3⟩, rfl⟩
    exact .inl ⟨_, ⟨(), mmxEnabled_ok.2 ⟨h1, h2⟩, by simp [h3]⟩, rfl⟩

/-! ## POP and PUSH -/

/-- POP r changes registers alone. -/
theorem popReg_frame {sz : OpSize} {r : Reg} {s t : State} (h : popReg sz r s = .ok t) :
    t = { s with regs := t.regs } := by
  obtain ⟨⟨v, u⟩, hp, h⟩ := Res.bind_ok.1 h
  obtain ⟨q, -, -, rfl⟩ := pop_ok.1 hp
  cases h
  apply State.ext <;> simp

/-- POP m changes the stack pointer, memory and the count of free values alone. -/
theorem popMem_frame {sz : OpSize} {m : MemOp} {s t : State} (h : popMem sz m s = .ok t) :
    t = { s with regs := (s.setSp (s.spPlus (opBytes sz))).regs, mem := t.mem, freeCount := t.freeCount } := by
  obtain ⟨⟨v, u⟩, hp, h⟩ := Res.bind_ok.1 h
  obtain ⟨q, -, -, rfl⟩ := pop_ok.1 hp
  obtain ⟨w, hw, h⟩ := Res.bind_ok.1 h
  obtain ⟨ps, -, rfl⟩ := memWrite_ok.1 hw
  cases h
  split <;> apply State.ext <;> simp

/-- POP m keeps the canonical form of memory. -/
theorem popMem_wf {sz : OpSize} {m : MemOp} {s t : State} (h : popMem sz m s = .ok t) (hw : Memory.wf s.mem) :
    Memory.wf t.mem := by
  obtain ⟨⟨v, u⟩, hp, h⟩ := Res.bind_ok.1 h
  obtain ⟨q, -, -, rfl⟩ := pop_ok.1 hp
  obtain ⟨w, hm, h⟩ := Res.bind_ok.1 h
  have := memWrite_wf hm (by simpa using hw)
  cases h
  split <;> simpa using this

/-- POP sreg changes the stack pointer and the named segment register alone. -/
theorem popSeg_frame {sz : OpSize} {S : SReg} {s t : State} (h : popSeg sz S s = .ok t) :
    ∃ x, t = (s.setSp (s.spPlus (opBytes sz))).setSeg S x ∧ (s.mode ≠ .prot ∨ S = .ss → x.hid.null = false) := by
  obtain ⟨⟨v, u⟩, hp, h⟩ := Res.bind_ok.1 h
  obtain ⟨q, -, -, rfl⟩ := pop_ok.1 hp
  obtain ⟨x, rfl, hx⟩ := loadSeg_ok h
  exact ⟨x, rfl, by simpa using hx⟩

/-- POPA and POPAD change registers alone. -/
theorem popAll_frame {sz : OpSize} {s t : State} (h : popAll sz s = .ok t) : t = { s with regs := t.regs } := by
  obtain ⟨u, h1, h2⟩ := Res.bind_ok.1 h
  rw [popRegs_frame h2, popRegs_frame h1]
  simp

/-- POPF and POPFD change the stack pointer and EFLAGS alone. -/
theorem popFlags_ok {sz : OpSize} {s t : State} :
    popFlags sz s = .ok t ↔
      ¬(s.mode = .v86 ∧ flagIOPL s.eflags < 3) ∧
        ∃ q, memRead .integer .ss s.sp (opBytes sz) s = .ok q ∧
          t = (s.setSp (s.spPlus (opBytes sz))).setFlags (popfFlags s.mode s.cpl sz s.eflags (q.setWidth 32)) := by
  unfold popFlags
  split
  · simp_all
  · rename_i hc
    simp only [hc, not_false_eq_true, true_and, Res.bind_ok]
    constructor
    · rintro ⟨⟨v, u⟩, hp, h⟩
      obtain ⟨q, hq, rfl, rfl⟩ := pop_ok.1 hp
      cases h
      exact ⟨q, hq, rfl⟩
    · rintro ⟨q, hq, rfl⟩
      exact ⟨(q.setWidth 32, _), pop_ok.2 ⟨q, hq, rfl, rfl⟩, rfl⟩

/-- A push changes registers and memory alone. -/
theorem push_frame {sz : OpSize} {v : Dword} {s t : State} (h : push sz v s = .ok t) :
    t = { s with regs := t.regs, mem := t.mem } := by
  obtain ⟨-, w, hw, rfl⟩ := push_ok.1 h
  obtain ⟨ps, -, rfl⟩ := memWrite_ok.1 hw
  apply State.ext <;> simp

/-- A push keeps the canonical form of memory. -/
theorem push_wf {sz : OpSize} {v : Dword} {s t : State} (h : push sz v s = .ok t) (hw : Memory.wf s.mem) :
    Memory.wf t.mem := by
  obtain ⟨-, w, hm, rfl⟩ := push_ok.1 h
  simpa using memWrite_wf hm hw

/-- PUSHA and PUSHAD complete when the start test passes and the eight pushes do. -/
theorem pushAll_ok {sz : OpSize} {s t : State} :
    pushAll sz s = .ok t ↔ pushAllStart s = .ok () ∧ pushList sz (pushAllOrder.map (s.regSz sz)) s = .ok t := by
  simp only [pushAll, Res.bind_ok]
  constructor
  · rintro ⟨⟨⟩, h1, h2⟩
    exact ⟨h1, h2⟩
  · rintro ⟨h1, h2⟩
    exact ⟨(), h1, h2⟩

end Sys2Proof.Machine
end

