-- ==== Sys2Proof/Laws/Exec.lean ====
section
/-! SUPPORT. The form of every instruction's meaning: which shared rule it is made of. A proof about all instructions
splits on these thirteen forms and cites the lemmas of the shared rules. -/

namespace Sys2Proof.Machine

/-- The shared rule that the meaning of `i` in `s` is made of. `plain` says that the rule is not that of POP SS, nor of POPF
and POPFD. -/
inductive ExecForm (i : Instr) (s : State) : Prop where
  | mmx (dst : MReg) (src : MmSrc) (n : Nat) (f : Qword → Qword → Qword) (dest : mmDest i = some dst)
      (operand : memOperand i = MmSrc.memOp src) (form : exec i s = mmxRun i dst src n f s)
      (plain : (∀ sz, i ≠ .popSs sz) ∧ i ≠ .popf ∧ i ≠ .popfd)
  | mmxImm (dst : MReg) (c : Byte) (f : Qword → Nat → Qword) (dest : mmDest i = some dst)
      (operand : memOperand i = none) (form : exec i s = mmxRunImm i dst c f s)
      (plain : (∀ sz, i ≠ .popSs sz) ∧ i ≠ .popf ∧ i ≠ .popfd)
  | popReg (sz : OpSize) (r : Reg) (dest : mmDest i = none) (form : exec i s = settle i false s (popReg sz r s))
      (plain : (∀ sz, i ≠ .popSs sz) ∧ i ≠ .popf ∧ i ≠ .popfd)
  | popMem (sz : OpSize) (m : MemOp) (dest : mmDest i = none) (form : exec i s = settle i false s (popMem sz m s))
      (plain : (∀ sz, i ≠ .popSs sz) ∧ i ≠ .popf ∧ i ≠ .popfd)
  | popSeg (sz : OpSize) (S : SReg) (data : S ≠ .ss ∧ S ≠ .cs) (dest : mmDest i = none)
      (which : i = .popDs sz ∨ i = .popEs sz ∨ i = .popFs sz ∨ i = .popGs sz)
      (form : exec i s = settle i false s (popSeg sz S s)) (plain : (∀ sz, i ≠ .popSs sz) ∧ i ≠ .popf ∧ i ≠ .popfd)
  | popSs (sz : OpSize) (which : i = .popSs sz)
      (form : exec i s = settle i (popSsInhibit s) s (popSeg sz .ss s >>= fun t => .ok (popSsCount s t)))
  | popAll (sz : OpSize) (dest : mmDest i = none) (form : exec i s = settle i false s (popAll sz s))
      (plain : (∀ sz, i ≠ .popSs sz) ∧ i ≠ .popf ∧ i ≠ .popfd)
  | popFlags (sz : OpSize) (which : i = .popf ∨ i = .popfd) (form : exec i s = settle i false s (popFlags sz s))
  | pushRm (sz : OpSize) (src : RmSrc) (dest : mmDest i = none) (operand : memOperand i = RmSrc.memOp src)
      (form : exec i s = settle i false s (pushRm sz src s)) (plain : (∀ sz, i ≠ .popSs sz) ∧ i ≠ .popf ∧ i ≠ .popfd)
  | push (sz : OpSize) (v : Dword) (dest : mmDest i = none) (form : exec i s = settle i false s (push sz v s))
      (plain : (∀ sz, i ≠ .popSs sz) ∧ i ≠ .popf ∧ i ≠ .popfd)
  | pushSeg (sz : OpSize) (S : SReg) (dest : mmDest i = none) (form : exec i s = settle i false s (pushSeg sz S s))
      (plain : (∀ sz, i ≠ .popSs sz) ∧ i ≠ .popf ∧ i ≠ .popfd)
  | pushAll (sz : OpSize) (dest : mmDest i = none) (form : exec i s = settle i false s (pushAll sz s))
      (plain : (∀ sz, i ≠ .popSs sz) ∧ i ≠ .popf ∧ i ≠ .popfd)
  | pushFlags (sz : OpSize) (dest : mmDest i = none) (form : exec i s = settle i false s (pushFlags sz s))
      (plain : (∀ sz, i ≠ .popSs sz) ∧ i ≠ .popf ∧ i ≠ .popfd)

/-- Every instruction's meaning is made of one shared rule. -/
theorem exec_form (i : Instr) (s : State) : ExecForm i s := by
  cases i
  case popM16 m => exact .popMem .w16 m rfl rfl (by simp)
  case popM32 m => exact .popMem .w32 m rfl rfl (by simp)
  case popR16 r => exact .popReg .w16 r rfl rfl (by simp)
  case popR32 r => exact .popReg .w32 r rfl rfl (by simp)
  case popDs sz => exact .popSeg sz .ds (by simp) rfl (by simp) rfl (by simp)
  case popEs sz => exact .popSeg sz .es (by simp) rfl (by simp) rfl (by simp)
  case popSs sz => exact .popSs sz rfl rfl
  case popFs sz => exact .popSeg sz .fs (by simp) rfl (by simp) rfl (by simp)
  case popGs sz => exact .popSeg sz .gs (by simp) rfl (by simp) rfl (by simp)
  case popa => exact .popAll .w16 rfl rfl (by simp)
  case popad => exact .popAll .w32 rfl rfl (by simp)
  case popf => exact .popFlags .w16 (by simp) rfl
  case popfd => exact .popFlags .w32 (by simp) rfl
  case pushRm16 src => exact .pushRm .w16 src rfl rfl rfl (by simp)
  case pushRm32 src => exact .pushRm .w32 src rfl rfl rfl (by simp)
  case pushR16 r => exact .push .w16 _ rfl rfl (by simp)
  case pushR32 r => exact .push .w32 _ rfl rfl (by simp)
  case pushImm8 sz ib => exact .push sz _ rfl rfl (by simp)
  case pushImm16 iw => exact .push .w16 _ rfl rfl (by simp)
  case pushImm32 id => exact .push .w32 _ rfl rfl (by simp)
  case pushCs sz => exact .pushSeg sz .cs rfl rfl (by simp)
  case pushSs sz => exact .pushSeg sz .ss rfl rfl (by simp)
  case pushDs sz => exact .pushSeg sz .ds rfl rfl (by simp)
  case pushEs sz => exact .pushSeg sz .es rfl rfl (by simp)
  case pushFs sz => exact .pushSeg sz .fs rfl rfl (by simp)
  case pushGs sz => exact .pushSeg sz .gs rfl rfl (by simp)
  case pusha => exact .pushAll .w16 rfl rfl (by simp)
  case pushad => exact .pushAll .w32 rfl rfl (by simp)
  case pushf => exact .pushFlags .w16 rfl rfl (by simp)
  case pushfd => exact .pushFlags .w32 rfl rfl (by simp)
  case psllw d m => exact .mmx d m 8 (fun a v => psllw a v.toNat) rfl rfl rfl (by simp)
  case pslld d m => exact .mmx d m 8 (fun a v => pslld a v.toNat) rfl rfl rfl (by simp)
  case psllq d m => exact .mmx d m 8 (fun a v => psllq a v.toNat) rfl rfl rfl (by simp)
  case psraw d m => exact .mmx d m 8 (fun a v => psraw a v.toNat) rfl rfl rfl (by simp)
  case psrad d m => exact .mmx d m 8 (fun a v => psrad a v.toNat) rfl rfl rfl (by simp)
  case psrlw d m => exact .mmx d m 8 (fun a v => psrlw a v.toNat) rfl rfl rfl (by simp)
  case psrld d m => exact .mmx d m 8 (fun a v => psrld a v.toNat) rfl rfl rfl (by simp)
  case psrlq d m => exact .mmx d m 8 (fun a v => psrlq a v.toNat) rfl rfl rfl (by simp)
  all_goals
    first
      | exact .mmx _ _ _ _ rfl rfl rfl (by simp)
      | exact .mmxImm _ _ _ rfl rfl rfl (by simp)

end Sys2Proof.Machine
end

