-- ==== Sys2Proof/Laws/Lanes.lean ====
section
/-! SUPPORT. The elements of a quadword that is built from elements. -/

namespace Sys2Proof.Machine

/-- A field of a concatenation that lies above its low part. -/
theorem extractLsb'_append_high {n m : Nat} (x : BitVec n) (y : BitVec m) (k w : Nat) (h : m ≤ k) :
    (x ++ y).extractLsb' k w = x.extractLsb' (k - m) w := by
  apply BitVec.eq_of_getLsbD_eq
  intro i hi
  simp only [BitVec.getLsbD_extractLsb', BitVec.getLsbD_append, hi]
  rw [if_neg (by omega), show k + i - m = k - m + i by omega]

/-- The low part of a concatenation. -/
theorem extractLsb'_append_low {n m : Nat} (x : BitVec n) (y : BitVec m) : (x ++ y).extractLsb' 0 m = y := by
  apply BitVec.eq_of_getLsbD_eq
  intro i hi
  simp [BitVec.getLsbD_append, hi]

/-- A byte element of a quadword built from bytes. -/
theorem byteLane_ofBytes (f : Nat → Byte) {k : Nat} (h : k < 8) : byteLane (ofBytes f) k = f k := by
  have hk : k = 0 ∨ k = 1 ∨ k = 2 ∨ k = 3 ∨ k = 4 ∨ k = 5 ∨ k = 6 ∨ k = 7 := by omega
  rcases hk with rfl | rfl | rfl | rfl | rfl | rfl | rfl | rfl
  · exact (extractLsb'_append_low (f 7 ++ f 6 ++ f 5 ++ f 4 ++ f 3 ++ f 2 ++ f 1) (f 0))
  · exact ((extractLsb'_append_high _ (f 0) 8 8 (by omega)).trans
      (extractLsb'_append_low (f 7 ++ f 6 ++ f 5 ++ f 4 ++ f 3 ++ f 2) (f 1)))
  · exact ((extractLsb'_append_high _ (f 0) 16 8 (by omega)).trans
      ((extractLsb'_append_high _ (f 1) 8 8 (by omega)).trans
      (extractLsb'_append_low (f 7 ++ f 6 ++ f 5 ++ f 4 ++ f 3) (f 2))))
  · exact ((extractLsb'_append_high _ (f 0) 24 8 (by omega)).trans
      ((extractLsb'_append_high _ (f 1) 16 8 (by omega)).trans
      ((extractLsb'_append_high _ (f 2) 8 8 (by omega)).trans
      (extractLsb'_append_low (f 7 ++ f 6 ++ f 5 ++ f 4) (f 3)))))
  · exact ((extractLsb'_append_high _ (f 0) 32 8 (by omega)).trans
      ((extractLsb'_append_high _ (f 1) 24 8 (by omega)).trans
      ((extractLsb'_append_high _ (f 2) 16 8 (by omega)).trans
      ((extractLsb'_append_high _ (f 3) 8 8 (by omega)).trans
      (extractLsb'_append_low (f 7 ++ f 6 ++ f 5) (f 4))))))
  · exact ((extractLsb'_append_high _ (f 0) 40 8 (by omega)).trans
      ((extractLsb'_append_high _ (f 1) 32 8 (by omega)).trans
      ((extractLsb'_append_high _ (f 2) 24 8 (by omega)).trans
      ((extractLsb'_append_high _ (f 3) 16 8 (by omega)).trans
      ((extractLsb'_append_high _ (f 4) 8 8 (by omega)).trans
      (extractLsb'_append_low (f 7 ++ f 6) (f 5)))))))
  · exact ((extractLsb'_append_high _ (f 0) 48 8 (by omega)).trans
      ((extractLsb'_append_high _ (f 1) 40 8 (by omega)).trans
      ((extractLsb'_append_high _ (f 2) 32 8 (by omega)).trans
      ((extractLsb'_append_high _ (f 3) 24 8 (by omega)).trans
      ((extractLsb'_append_high _ (f 4) 16 8 (by omega)).trans
      ((extractLsb'_append_high _ (f 5) 8 8 (by omega)).trans
      (extractLsb'_append_low (f 7) (f 6))))))))
  · exact ((extractLsb'_append_high _ (f 0) 56 8 (by omega)).trans
      ((extractLsb'_append_high _ (f 1) 48 8 (by omega)).trans
      ((extractLsb'_append_high _ (f 2) 40 8 (by omega)).trans
      ((extractLsb'_append_high _ (f 3) 32 8 (by omega)).trans
      ((extractLsb'_append_high _ (f 4) 24 8 (by omega)).trans
      ((extractLsb'_append_high _ (f 5) 16 8 (by omega)).trans
      ((extractLsb'_append_high _ (f 6) 8 8 (by omega)).trans
      (BitVec.extractLsb'_eq_self (x := f 7)))))))))

/-- A word element of a quadword built from words. -/
theorem wordLane_ofWords (f : Nat → Word) {k : Nat} (h : k < 4) : wordLane (ofWords f) k = f k := by
  have hk : k = 0 ∨ k = 1 ∨ k = 2 ∨ k = 3 := by omega
  rcases hk with rfl | rfl | rfl | rfl
  · exact (extractLsb'_append_low (f 3 ++ f 2 ++ f 1) (f 0))
  · exact ((extractLsb'_append_high _ (f 0) 16 16 (by omega)).trans (extractLsb'_append_low (f 3 ++ f 2) (f 1)))
  · exact ((extractLsb'_append_high _ (f 0) 32 16 (by omega)).trans
      ((extractLsb'_append_high _ (f 1) 16 16 (by omega)).trans
      (extractLsb'_append_low (f 3) (f 2))))
  · exact ((extractLsb'_append_high _ (f 0) 48 16 (by omega)).trans
      ((extractLsb'_append_high _ (f 1) 32 16 (by omega)).trans
      ((extractLsb'_append_high _ (f 2) 16 16 (by omega)).trans
      (BitVec.extractLsb'_eq_self (x := f 3)))))

/-- A doubleword element of a quadword built from doublewords. -/
theorem dwordLane_ofDwords (f : Nat → Dword) {k : Nat} (h : k < 2) : dwordLane (ofDwords f) k = f k := by
  have hk : k = 0 ∨ k = 1 := by omega
  rcases hk with rfl | rfl
  · exact (extractLsb'_append_low (f 1) (f 0))
  · exact ((extractLsb'_append_high _ (f 0) 32 32 (by omega)).trans (BitVec.extractLsb'_eq_self (x := f 1)))

end Sys2Proof.Machine
end

