-- ==== Sys2Proof/Laws/PerInstr.lean ====
section
/-! SUPPORT. The per-instruction family `EncodeLength`: an encoding has at least one byte and at most 10, so the bound of
15 bytes (30_encoding.md R81) is never reached. -/

namespace Sys2Proof.Laws.EncodeLength

/-- The encoding of an instruction, in a code segment of either default size, has 1 to 10 bytes. -/
def Statement (i : Instr) : Prop := ∀ db : Bool, 1 ≤ (encode db i).length ∧ (encode db i).length ≤ 10

theorem modrmBytes_length (r : BitVec 3) (a : Addr) :
    1 ≤ (a.modrmBytes r).length ∧ (a.modrmBytes r).length ≤ 6 := by
  cases a <;> rename_i d
  case a16 b => cases d <;> simp [Addr.modrmBytes, Disp16.bytes]
  case abs16 => simp [Addr.modrmBytes]
  case a32 b => cases d <;> simp [Addr.modrmBytes, Disp32.bytes]
  case abs32 => simp [Addr.modrmBytes]
  case sib b s i => cases d <;> simp [Addr.modrmBytes, Disp32.bytes]
  case sibNoBase s i => simp [Addr.modrmBytes]

theorem opSizePrefix_length (db : Bool) (sz : OpSize) : (opSizePrefix db sz).length ≤ 1 := by
  cases db <;> cases sz <;> simp [opSizePrefix]

theorem prefixes_length (db : Bool) (m : MemOp) : (m.prefixes db).length ≤ 2 := by
  unfold MemOp.prefixes
  split <;> split <;> simp

theorem mmxRm_length (db : Bool) (op : Byte) (dst : MReg) (src : MmSrc) :
    1 ≤ (encodeMmxRm db op dst src).length ∧ (encodeMmxRm db op dst src).length ≤ 10 := by
  cases src with
  | reg r => simp [encodeMmxRm]
  | mem m =>
    have h1 := prefixes_length db m
    have h2 := modrmBytes_length dst.toBits m.addr
    simp only [encodeMmxRm, List.length_append, List.length_cons, List.length_nil]
    omega

theorem opMem_length (db : Bool) (sz : OpSize) (op : Byte) (digit : BitVec 3) (m : MemOp) :
    1 ≤ (encodeOpMem db sz op digit m).length ∧ (encodeOpMem db sz op digit m).length ≤ 10 := by
  have h0 := opSizePrefix_length db sz
  have h1 := prefixes_length db m
  have h2 := modrmBytes_length digit m.addr
  simp only [encodeOpMem, List.length_append, List.length_cons, List.length_nil]
  omega

theorem pushRm_length (db : Bool) (sz : OpSize) (src : RmSrc) :
    1 ≤ (encodePushRm db sz src).length ∧ (encodePushRm db sz src).length ≤ 10 := by
  cases src with
  | reg r =>
    have h0 := opSizePrefix_length db sz
    simp only [encodePushRm, List.length_append, List.length_cons, List.length_nil]
    omega
  | mem m => exact opMem_length db sz 0xFF 6 m

/-- An operand-size prefix and a tail of 1 to 5 bytes. -/
theorem fixed_length (db : Bool) (sz : OpSize) (bs : List Byte) (h : 1 ≤ bs.length ∧ bs.length ≤ 5) :
    1 ≤ (opSizePrefix db sz ++ bs).length ∧ (opSizePrefix db sz ++ bs).length ≤ 10 := by
  have h0 := opSizePrefix_length db sz
  simp only [List.length_append]
  omega

theorem packsswb (dst : MReg) (src : MmSrc) : Statement (.packsswb dst src) := fun db => mmxRm_length db _ _ _
theorem packssdw (dst : MReg) (src : MmSrc) : Statement (.packssdw dst src) := fun db => mmxRm_length db _ _ _
theorem packuswb (dst : MReg) (src : MmSrc) : Statement (.packuswb dst src) := fun db => mmxRm_length db _ _ _
theorem paddb (dst : MReg) (src : MmSrc) : Statement (.paddb dst src) := fun db => mmxRm_length db _ _ _
theorem paddw (dst : MReg) (src : MmSrc) : Statement (.paddw dst src) := fun db => mmxRm_length db _ _ _
theorem paddd (dst : MReg) (src : MmSrc) : Statement (.paddd dst src) := fun db => mmxRm_length db _ _ _
theorem paddsb (dst : MReg) (src : MmSrc) : Statement (.paddsb dst src) := fun db => mmxRm_length db _ _ _
theorem paddsw (dst : MReg) (src : MmSrc) : Statement (.paddsw dst src) := fun db => mmxRm_length db _ _ _
theorem paddusb (dst : MReg) (src : MmSrc) : Statement (.paddusb dst src) := fun db => mmxRm_length db _ _ _
theorem paddusw (dst : MReg) (src : MmSrc) : Statement (.paddusw dst src) := fun db => mmxRm_length db _ _ _
theorem pand (dst : MReg) (src : MmSrc) : Statement (.pand dst src) := fun db => mmxRm_length db _ _ _
theorem pandn (dst : MReg) (src : MmSrc) : Statement (.pandn dst src) := fun db => mmxRm_length db _ _ _
theorem pcmpeqb (dst : MReg) (src : MmSrc) : Statement (.pcmpeqb dst src) := fun db => mmxRm_length db _ _ _
theorem pcmpeqw (dst : MReg) (src : MmSrc) : Statement (.pcmpeqw dst src) := fun db => mmxRm_length db _ _ _
theorem pcmpeqd (dst : MReg) (src : MmSrc) : Statement (.pcmpeqd dst src) := fun db => mmxRm_length db _ _ _
theorem pcmpgtb (dst : MReg) (src : MmSrc) : Statement (.pcmpgtb dst src) := fun db => mmxRm_length db _ _ _
theorem pcmpgtw (dst : MReg) (src : MmSrc) : Statement (.pcmpgtw dst src) := fun db => mmxRm_length db _ _ _
theorem pcmpgtd (dst : MReg) (src : MmSrc) : Statement (.pcmpgtd dst src) := fun db => mmxRm_length db _ _ _
theorem pmaddwd (dst : MReg) (src : MmSrc) : Statement (.pmaddwd dst src) := fun db => mmxRm_length db _ _ _
theorem pmulhw (dst : MReg) (src : MmSrc) : Statement (.pmulhw dst src) := fun db => mmxRm_length db _ _ _
theorem pmullw (dst : MReg) (src : MmSrc) : Statement (.pmullw dst src) := fun db => mmxRm_length db _ _ _
theorem por (dst : MReg) (src : MmSrc) : Statement (.por dst src) := fun db => mmxRm_length db _ _ _
theorem psllw (dst : MReg) (src : MmSrc) : Statement (.psllw dst src) := fun db => mmxRm_length db _ _ _
theorem psllwImm (dst : MReg) (count : Byte) : Statement (.psllwImm dst count) := fun _ => by simp [encode, encodeMmxShift]
theorem pslld (dst : MReg) (src : MmSrc) : Statement (.pslld dst src) := fun db => mmxRm_length db _ _ _
theorem pslldImm (dst : MReg) (count : Byte) : Statement (.pslldImm dst count) := fun _ => by simp [encode, encodeMmxShift]
theorem psllq (dst : MReg) (src : MmSrc) : Statement (.psllq dst src) := fun db => mmxRm_length db _ _ _
theorem psllqImm (dst : MReg) (count : Byte) : Statement (.psllqImm dst count) := fun _ => by simp [encode, encodeMmxShift]
theorem psraw (dst : MReg) (src : MmSrc) : Statement (.psraw dst src) := fun db => mmxRm_length db _ _ _
theorem psrawImm (dst : MReg) (count : Byte) : Statement (.psrawImm dst count) := fun _ => by simp [encode, encodeMmxShift]
theorem psrad (dst : MReg) (src : MmSrc) : Statement (.psrad dst src) := fun db => mmxRm_length db _ _ _
theorem psradImm (dst : MReg) (count : Byte) : Statement (.psradImm dst count) := fun _ => by simp [encode, encodeMmxShift]
theorem psrlw (dst : MReg) (src : MmSrc) : Statement (.psrlw dst src) := fun db => mmxRm_length db _ _ _
theorem psrlwImm (dst : MReg) (count : Byte) : Statement (.psrlwImm dst count) := fun _ => by simp [encode, encodeMmxShift]
theorem psrld (dst : MReg) (src : MmSrc) : Statement (.psrld dst src) := fun db => mmxRm_length db _ _ _
theorem psrldImm (dst : MReg) (count : Byte) : Statement (.psrldImm dst count) := fun _ => by simp [encode, encodeMmxShift]
theorem psrlq (dst : MReg) (src : MmSrc) : Statement (.psrlq dst src) := fun db => mmxRm_length db _ _ _
theorem psrlqImm (dst : MReg) (count : Byte) : Statement (.psrlqImm dst count) := fun _ => by simp [encode, encodeMmxShift]
theorem psubb (dst : MReg) (src : MmSrc) : Statement (.psubb dst src) := fun db => mmxRm_length db _ _ _
theorem psubw (dst : MReg) (src : MmSrc) : Statement (.psubw dst src) := fun db => mmxRm_length db _ _ _
theorem psubd (dst : MReg) (src : MmSrc) : Statement (.psubd dst src) := fun db => mmxRm_length db _ _ _
theorem psubsb (dst : MReg) (src : MmSrc) : Statement (.psubsb dst src) := fun db => mmxRm_length db _ _ _
theorem psubsw (dst : MReg) (src : MmSrc) : Statement (.psubsw dst src) := fun db => mmxRm_length db _ _ _
theorem psubusb (dst : MReg) (src : MmSrc) : Statement (.psubusb dst src) := fun db => mmxRm_length db _ _ _
theorem psubusw (dst : MReg) (src : MmSrc) : Statement (.psubusw dst src) := fun db => mmxRm_length db _ _ _
theorem punpckhbw (dst : MReg) (src : MmSrc) : Statement (.punpckhbw dst src) := fun db => mmxRm_length db _ _ _
theorem punpckhwd (dst : MReg) (src : MmSrc) : Statement (.punpckhwd dst src) := fun db => mmxRm_length db _ _ _
theorem punpckhdq (dst : MReg) (src : MmSrc) : Statement (.punpckhdq dst src) := fun db => mmxRm_length db _ _ _
theorem punpcklbw (dst : MReg) (src : MmSrc) : Statement (.punpcklbw dst src) := fun db => mmxRm_length db _ _ _
theorem punpcklwd (dst : MReg) (src : MmSrc) : Statement (.punpcklwd dst src) := fun db => mmxRm_length db _ _ _
theorem punpckldq (dst : MReg) (src : MmSrc) : Statement (.punpckldq dst src) := fun db => mmxRm_length db _ _ _
theorem pxor (dst : MReg) (src : MmSrc) : Statement (.pxor dst src) := fun db => mmxRm_length db _ _ _
theorem popM16 (dst : MemOp) : Statement (.popM16 dst) := fun db => opMem_length db _ _ _ _
theorem popM32 (dst : MemOp) : Statement (.popM32 dst) := fun db => opMem_length db _ _ _ _
theorem popR16 (r : Reg) : Statement (.popR16 r) := fun db => fixed_length db _ _ (by simp)
theorem popR32 (r : Reg) : Statement (.popR32 r) := fun db => fixed_length db _ _ (by simp)
theorem popDs (sz : OpSize) : Statement (.popDs sz) := fun db => fixed_length db _ _ (by simp)
theorem popEs (sz : OpSize) : Statement (.popEs sz) := fun db => fixed_length db _ _ (by simp)
theorem popSs (sz : OpSize) : Statement (.popSs sz) := fun db => fixed_length db _ _ (by simp)
theorem popFs (sz : OpSize) : Statement (.popFs sz) := fun db => fixed_length db _ _ (by simp)
theorem popGs (sz : OpSize) : Statement (.popGs sz) := fun db => fixed_length db _ _ (by simp)
theorem popa : Statement (.popa) := fun db => fixed_length db _ _ (by simp)
theorem popad : Statement (.popad) := fun db => fixed_length db _ _ (by simp)
theorem popf : Statement (.popf) := fun db => fixed_length db _ _ (by simp)
theorem popfd : Statement (.popfd) := fun db => fixed_length db _ _ (by simp)
theorem pushRm16 (src : RmSrc) : Statement (.pushRm16 src) := fun db => pushRm_length db _ _
theorem pushRm32 (src : RmSrc) : Statement (.pushRm32 src) := fun db => pushRm_length db _ _
theorem pushR16 (r : Reg) : Statement (.pushR16 r) := fun db => fixed_length db _ _ (by simp)
theorem pushR32 (r : Reg) : Statement (.pushR32 r) := fun db => fixed_length db _ _ (by simp)
theorem pushImm8 (sz : OpSize) (imm : Byte) : Statement (.pushImm8 sz imm) := fun db => fixed_length db _ _ (by simp)
theorem pushImm16 (imm : Word) : Statement (.pushImm16 imm) := fun db => fixed_length db _ _ (by simp)
theorem pushImm32 (imm : Dword) : Statement (.pushImm32 imm) := fun db => fixed_length db _ _ (by simp)
theorem pushCs (sz : OpSize) : Statement (.pushCs sz) := fun db => fixed_length db _ _ (by simp)
theorem pushSs (sz : OpSize) : Statement (.pushSs sz) := fun db => fixed_length db _ _ (by simp)
theorem pushDs (sz : OpSize) : Statement (.pushDs sz) := fun db => fixed_length db _ _ (by simp)
theorem pushEs (sz : OpSize) : Statement (.pushEs sz) := fun db => fixed_length db _ _ (by simp)
theorem pushFs (sz : OpSize) : Statement (.pushFs sz) := fun db => fixed_length db _ _ (by simp)
theorem pushGs (sz : OpSize) : Statement (.pushGs sz) := fun db => fixed_length db _ _ (by simp)
theorem pusha : Statement (.pusha) := fun db => fixed_length db _ _ (by simp)
theorem pushad : Statement (.pushad) := fun db => fixed_length db _ _ (by simp)
theorem pushf : Statement (.pushf) := fun db => fixed_length db _ _ (by simp)
theorem pushfd : Statement (.pushfd) := fun db => fixed_length db _ _ (by simp)

end Sys2Proof.Laws.EncodeLength
end

