-- ==== Sys2Proof/Tests/Slice0.lean ====
section
/-! SUPPORT. The model's own tests: ill-formed terms, words written from the encoding tables, vectors of
spec/95_test_vectors.md, and for each statement with hypotheses a state and operands that meet them. -/

namespace Sys2Proof.Tests

open Sys2Proof Sys2Proof.Machine

/-! ## States and views -/

/-- A writable data segment with base 0. -/
def flat (limit : Dword) (db : Bool) : Segment := { sel := 0x23, hid := { Hidden.resetData with limit := limit, db := db } }

/-- Real-address mode with 32-bit default sizes, a 32-bit stack and segments without a limit. -/
def m32 : State :=
  let f := flat 0xFFFFFFFF true
  { State.reset with
    regs := { eax := 0x12345678, ecx := 0x11, edx := 0x22, ebx := 0x3000, esp := 0x1000, ebp := 0x55, esi := 0x66, edi := 0x77 }
    pc := 0x100
    segs := { cs := f, ss := f, ds := f, es := f, fs := f, gs := f } }

/-- Real-address mode with 16-bit default sizes, a 16-bit stack and limits of 0xFFFF. -/
def m16 : State :=
  let f := flat 0xFFFF false
  { m32 with segs := { cs := f, ss := f, ds := f, es := f, fs := f, gs := f } }

/-- Protected mode at level 0. -/
def pm : State := { m32 with cr0 := { m32.cr0 with pe := true } }

/-- Virtual-8086 mode with IOPL 3. -/
def vm : State := { m16 with cr0 := { m16.cr0 with pe := true }, eflags := 0x00023202, cpl := 3 }

/-- The state with bytes stored at an address. -/
def put (s : State) (a : Nat) (bs : List Byte) : State :=
  { s with mem := s.mem.store ((List.range bs.length).map (a + ·)) bs }

/-- The bytes at an address. -/
def bytesAt (s : State) (a n : Nat) : List Byte := (List.range n).map fun k => s.mem.read (a + k)

/-- The state with an ESP. -/
def withEsp (s : State) (v : Dword) : State := s.setReg .esp v

/-- What a view shows of the next state, if there is one. -/
def seen {α : Type} (view : State → α) : Out → Option α
  | .next t => some (view t)
  | .fault _ => none
  | .refused _ => none

/-- The exception that an outcome carries, if it is one. -/
def exnOf : Out → Option Exn
  | .fault (.exception e _) => some e
  | .fault .shutDown => none
  | .next _ => none
  | .refused _ => none

/-- The value of a result, if there is one. -/
def okOf {ε α : Type} : Except ε α → Option α
  | .ok a => some a
  | .error _ => none

/-- What stopped a result, if it was stopped. -/
def errOf {ε α : Type} : Except ε α → Option ε
  | .ok _ => none
  | .error e => some e

/-- A result whose value is `a` is `.ok a`. -/
theorem eq_ok {ε α : Type} {x : Except ε α} {a : α} (h : okOf x = some a) : x = .ok a := by
  cases x with
  | ok b => cases h; rfl
  | error e => cases h

/-- MM0 after an instruction that started with `d` in MM0 and `v` in MM1. -/
def mmOut (i : Instr) (d v : Qword) : Option Qword :=
  seen (·.getMm .mm0) (exec i { m32 with mm := { m32.mm with mm0 := d, mm1 := v } })

/-- Each byte list decodes to its instruction, and is used up. -/
abbrev Reads (db : Bool) (l : List (List Byte × Instr)) : Prop := ∀ p ∈ l, okOf (decode db p.1) = some (p.2, [])

/-- Each row of a vector table gives the result in its last column. -/
abbrev Gives (l : List ((MReg → MmSrc → Instr) × Qword × Qword × Qword)) : Prop :=
  ∀ p ∈ l, mmOut (p.1 .mm0 (.reg .mm1)) p.2.1 p.2.2.1 = some p.2.2.2

/-- Each shift by an imm8 gives the result in its last column, from the `d` of spec/95_test_vectors.md 2.5. -/
abbrev ShiftGives (l : List ((MReg → Byte → Instr) × Byte × Qword)) : Prop :=
  ∀ p ∈ l, mmOut (p.1 .mm0 p.2.1) 0x8001F00F12345678 0 = some p.2.2

/-! ## Ill-formed terms are refused -/

/-- `[BP]` without a displacement: rm = 6 with mod = 0 is a disp16 (R91). -/
theorem test_wf_bp : (Instr.popM16 ⟨none, .a16 .bp .none⟩).wf = false := by decide

/-- `[ESP]` without a SIB byte: rm = 4 is the SIB escape (R90). -/
theorem test_wf_esp : ∀ d, (Instr.popM32 ⟨none, .a32 .esp d⟩).wf = false := by intro d; rfl

/-- `[EBP]` without a displacement: rm = 5 with mod = 0 is a disp32 (R90). -/
theorem test_wf_ebp : (Instr.paddb .mm0 (.mem ⟨none, .a32 .ebp .none⟩)).wf = false := by decide

/-- SIB base EBP without a displacement: base = 5 with mod = 0 has no base (R93). -/
theorem test_wf_sib_ebp : ∀ sc i, (Instr.pushRm32 (.mem ⟨some .gs, .sib .ebp sc i .none⟩)).wf = false := by
  intro sc i; rfl

/-! ## Decoding -/

/-- One word of each of the pack rows, from the `encoding` column of spec/opcode_table.json. -/
theorem test_decode_pack : Reads true [
    ([0x0F, 0x63, 0xCC], .packsswb .mm1 (.reg .mm4)),
    ([0x0F, 0x6B, 0xD7], .packssdw .mm2 (.reg .mm7)),
    ([0x0F, 0x67, 0xDA], .packuswb .mm3 (.reg .mm2))] := by decide

/-- One word of each of the add rows, from the `encoding` column of spec/opcode_table.json. -/
theorem test_decode_padd : Reads true [
    ([0x0F, 0xFC, 0xE5], .paddb .mm4 (.reg .mm5)),
    ([0x0F, 0xFD, 0xE8], .paddw .mm5 (.reg .mm0)),
    ([0x0F, 0xFE, 0xF3], .paddd .mm6 (.reg .mm3)),
    ([0x0F, 0xEC, 0xFE], .paddsb .mm7 (.reg .mm6)),
    ([0x0F, 0xED, 0xC1], .paddsw .mm0 (.reg .mm1)),
    ([0x0F, 0xDC, 0xCC], .paddusb .mm1 (.reg .mm4)),
    ([0x0F, 0xDD, 0xD7], .paddusw .mm2 (.reg .mm7))] := by decide

/-- One word of each of the bitwise rows, from the `encoding` column of spec/opcode_table.json. -/
theorem test_decode_logic : Reads true [
    ([0x0F, 0xDB, 0xDA], .pand .mm3 (.reg .mm2)),
    ([0x0F, 0xDF, 0xE5], .pandn .mm4 (.reg .mm5)),
    ([0x0F, 0xEB, 0xF3], .por .mm6 (.reg .mm3)),
    ([0x0F, 0xEF, 0xE5], .pxor .mm4 (.reg .mm5))] := by decide

/-- One word of each of the compare rows, from the `encoding` column of spec/opcode_table.json. -/
theorem test_decode_compare : Reads true [
    ([0x0F, 0x74, 0xE8], .pcmpeqb .mm5 (.reg .mm0)),
    ([0x0F, 0x75, 0xF3], .pcmpeqw .mm6 (.reg .mm3)),
    ([0x0F, 0x76, 0xFE], .pcmpeqd .mm7 (.reg .mm6)),
    ([0x0F, 0x64, 0xC1], .pcmpgtb .mm0 (.reg .mm1)),
    ([0x0F, 0x65, 0xCC], .pcmpgtw .mm1 (.reg .mm4)),
    ([0x0F, 0x66, 0xD7], .pcmpgtd .mm2 (.reg .mm7))] := by decide

/-- One word of each of the multiply rows, from the `encoding` column of spec/opcode_table.json. -/
theorem test_decode_multiply : Reads true [
    ([0x0F, 0xF5, 0xDA], .pmaddwd .mm3 (.reg .mm2)),
    ([0x0F, 0xE5, 0xE5], .pmulhw .mm4 (.reg .mm5)),
    ([0x0F, 0xD5, 0xE8], .pmullw .mm5 (.reg .mm0))] := by decide

/-- One word of each of the shift rows, from the `encoding` column of spec/opcode_table.json. -/
theorem test_decode_shift : Reads true [
    ([0x0F, 0xF1, 0xFE], .psllw .mm7 (.reg .mm6)),
    ([0x0F, 0x71, 0xF0, 0x7D], .psllwImm .mm0 0x7D),
    ([0x0F, 0xF2, 0xCC], .pslld .mm1 (.reg .mm4)),
    ([0x0F, 0x72, 0xF2, 0xC7], .pslldImm .mm2 0xC7),
    ([0x0F, 0xF3, 0xDA], .psllq .mm3 (.reg .mm2)),
    ([0x0F, 0x73, 0xF4, 0x11], .psllqImm .mm4 0x11),
    ([0x0F, 0xE1, 0xE8], .psraw .mm5 (.reg .mm0)),
    ([0x0F, 0x71, 0xE6, 0x5B], .psrawImm .mm6 0x5B),
    ([0x0F, 0xE2, 0xFE], .psrad .mm7 (.reg .mm6)),
    ([0x0F, 0x72, 0xE0, 0xA5], .psradImm .mm0 0xA5),
    ([0x0F, 0xD1, 0xCC], .psrlw .mm1 (.reg .mm4)),
    ([0x0F, 0x71, 0xD2, 0xEF], .psrlwImm .mm2 0xEF),
    ([0x0F, 0xD2, 0xDA], .psrld .mm3 (.reg .mm2)),
    ([0x0F, 0x72, 0xD4, 0x39], .psrldImm .mm4 0x39),
    ([0x0F, 0xD3, 0xE8], .psrlq .mm5 (.reg .mm0)),
    ([0x0F, 0x73, 0xD6, 0x83], .psrlqImm .mm6 0x83)] := by decide

/-- One word of each of the subtract rows, from the `encoding` column of spec/opcode_table.json. -/
theorem test_decode_psub : Reads true [
    ([0x0F, 0xF8, 0xFE], .psubb .mm7 (.reg .mm6)),
    ([0x0F, 0xF9, 0xC1], .psubw .mm0 (.reg .mm1)),
    ([0x0F, 0xFA, 0xCC], .psubd .mm1 (.reg .mm4)),
    ([0x0F, 0xE8, 0xD7], .psubsb .mm2 (.reg .mm7)),
    ([0x0F, 0xE9, 0xDA], .psubsw .mm3 (.reg .mm2)),
    ([0x0F, 0xD8, 0xE5], .psubusb .mm4 (.reg .mm5)),
    ([0x0F, 0xD9, 0xE8], .psubusw .mm5 (.reg .mm0))] := by decide

/-- One word of each of the unpack rows, from the `encoding` column of spec/opcode_table.json. -/
theorem test_decode_unpack : Reads true [
    ([0x0F, 0x68, 0xF3], .punpckhbw .mm6 (.reg .mm3)),
    ([0x0F, 0x69, 0xFE], .punpckhwd .mm7 (.reg .mm6)),
    ([0x0F, 0x6A, 0xC1], .punpckhdq .mm0 (.reg .mm1)),
    ([0x0F, 0x60, 0xCC], .punpcklbw .mm1 (.reg .mm4)),
    ([0x0F, 0x61, 0xD7], .punpcklwd .mm2 (.reg .mm7)),
    ([0x0F, 0x62, 0xDA], .punpckldq .mm3 (.reg .mm2))] := by decide

/-- One word of each of the POP rows, from the `encoding` column of spec/opcode_table.json. -/
theorem test_decode_pop : Reads true [
    ([0x66, 0x8F, 0x03], .popM16 ⟨none, .a32 .ebx .none⟩),
    ([0x8F, 0x03], .popM32 ⟨none, .a32 .ebx .none⟩),
    ([0x66, 0x5A], .popR16 .edx),
    ([0x5D], .popR32 .ebp),
    ([0x1F], .popDs .w32),
    ([0x07], .popEs .w32),
    ([0x17], .popSs .w32),
    ([0x0F, 0xA1], .popFs .w32),
    ([0x0F, 0xA9], .popGs .w32),
    ([0x66, 0x61], .popa),
    ([0x61], .popad),
    ([0x66, 0x9D], .popf),
    ([0x9D], .popfd)] := by decide

/-- One word of each of the PUSH rows, from the `encoding` column of spec/opcode_table.json. -/
theorem test_decode_push : Reads true [
    ([0x66, 0xFF, 0x77, 0x80], .pushRm16 (.mem ⟨none, .a32 .edi (.d8 0x80)⟩)),
    ([0xFF, 0x77, 0x80], .pushRm32 (.mem ⟨none, .a32 .edi (.d8 0x80)⟩)),
    ([0x66, 0x52], .pushR16 .edx),
    ([0x55], .pushR32 .ebp),
    ([0x66, 0x6A, 0x80], .pushImm8 .w16 0x80),
    ([0x66, 0x68, 0x34, 0x12], .pushImm16 0x1234),
    ([0x68, 0x78, 0x56, 0x34, 0x12], .pushImm32 0x12345678),
    ([0x0E], .pushCs .w32),
    ([0x16], .pushSs .w32),
    ([0x1E], .pushDs .w32),
    ([0x06], .pushEs .w32),
    ([0x0F, 0xA0], .pushFs .w32),
    ([0x0F, 0xA8], .pushGs .w32),
    ([0x66, 0x60], .pusha),
    ([0x60], .pushad),
    ([0x66, 0x9C], .pushf),
    ([0x9C], .pushfd)] := by decide

/-- The words of spec/95_test_vectors.md 2.8 with a memory operand, and R91's forms with a disp16 and no base. -/
theorem test_decode_memory : Reads true [
    ([0x0F, 0xEB, 0x03], .por .mm0 (.mem ⟨none, .a32 .ebx .none⟩)),
    ([0x0F, 0xFD, 0x4D, 0xF8], .paddw .mm1 (.mem ⟨none, .a32 .ebp (.d8 0xF8)⟩)),
    ([0x0F, 0xD5, 0x04, 0x8B], .pmullw .mm0 (.mem ⟨none, .sib .ebx 2 .ecx .none⟩)),
    ([0x0F, 0x63, 0x05, 0x00, 0x20, 0x00, 0x00], .packsswb .mm0 (.mem ⟨none, .abs32 0x2000⟩)),
    ([0x26, 0x0F, 0xDB, 0x0E], .pand .mm1 (.mem ⟨some .es, .a32 .esi .none⟩)),
    ([0x67, 0x0F, 0xF5, 0x07], .pmaddwd .mm0 (.mem ⟨none, .a16 .bx .none⟩)),
    ([0xFF, 0x34, 0x24], .pushRm32 (.mem ⟨none, .sib .esp 0 .esp .none⟩)),
    ([0x66, 0xFF, 0x73, 0x02], .pushRm16 (.mem ⟨none, .a32 .ebx (.d8 2)⟩)),
    ([0x8F, 0x04, 0x24], .popM32 ⟨none, .sib .esp 0 .esp .none⟩),
    ([0x67, 0x0F, 0x60, 0x06, 0x34, 0x12], .punpcklbw .mm0 (.mem ⟨none, .abs16 0x1234⟩)),
    ([0x8F, 0x04, 0xCD, 0x01, 0x00, 0x00, 0x00], .popM32 ⟨none, .sibNoBase 3 .ecx 1⟩)] := by decide

/-- In a 16-bit code segment the same opcode bytes name the 16-bit rows (R43). -/
theorem test_decode_word_size : Reads false [
    ([0x60], .pusha), ([0x61], .popa), ([0x9C], .pushf), ([0x9D], .popf), ([0x50], .pushR16 .eax), ([0x5C], .popR16 .esp),
    ([0x66, 0x60], .pushad), ([0x66, 0x17], .popSs .w32), ([0x8F, 0x07], .popM16 ⟨none, .a16 .bx .none⟩)] := by decide

/-- The refusals of spec/95_test_vectors.md 2.8: PSRAQ, a shift group in memory, 0x66 before MMX, LOCK, 8F with mod 3,
8F /1; and a second prefix of one column (R83), and bytes that end too early. -/
theorem test_decode_refusals :
    errOf (decode true [0x0F, 0x73, 0xE0, 0x01]) = some (.noGroupRow 0x73 0xE0) ∧
    errOf (decode true [0x0F, 0x71, 0x30, 0x04]) = some (.noGroupRow 0x71 0x30) ∧
    errOf (decode true [0x66, 0x0F, 0xEF, 0xC0]) = some .prefixNotAdmitted ∧
    errOf (decode true [0xF0, 0x0F, 0xEB, 0x03]) = some (.lockOrRep 0xF0) ∧
    errOf (decode true [0x8F, 0xC0]) = some (.noGroupRow 0x8F 0xC0) ∧
    errOf (decode true [0x8F, 0x08]) = some (.noGroupRow 0x8F 0x08) ∧
    errOf (decode true [0x2E, 0x26, 0xFF, 0x33]) = some (.repeatedPrefix 0x26) ∧
    errOf (decode true [0x68, 0x00]) = some .truncated := by decide

/-- A number of the opcode table is read as R106 numbers it, the first opcode byte the most significant. -/
theorem test_table_words :
    decodeTableWord 16 0x0F63 = some (.packsswb .mm0 (.mem ⟨none, .a16 .bxsi .none⟩)) ∧
    decodeTableWord 24 0x0F71F0 = some (.psllwImm .mm0 0) ∧ decodeTableWord 8 0x1F = some (.popDs .w16) := by decide

/-- `step` runs the instruction that `withFetchWord` placed, as the first after reset. -/
theorem test_first_step :
    seen (·.reg .esp) (step (State.reset.withFetchWord 8 0x1F)) = some 2 ∧
    seen (·.pc) (step (State.reset.withFetchWord 24 0x0F71F0)) = some 0xFFF4 := by decide

/-! ## Vectors of spec/95_test_vectors.md -/

/-- 2.1. -/
theorem test_pack : Gives [
    (.packsswb, 0x00800001FF7F7FFF, 0x8000FFFF0080007F, 0x80FF7F7F7F01807F),
    (.packsswb, 0x007F0080FF80FF7F, 0x7FFF800000000001, 0x7F8000017F7F8080),
    (.packssdw, 0x0000800000007FFF, 0xFFFF7FFF80000000, 0x800080007FFF7FFF),
    (.packssdw, 0x7FFFFFFF80000000, 0x00000001FFFFFFFF, 0x0001FFFF7FFF8000),
    (.packuswb, 0x010000FFFFFF0080, 0x7FFF8000007F0100, 0xFF007FFFFFFF0080)] := by decide

/-- 2.2. -/
theorem test_padd : Gives [
    (.paddb, 0xFF7F80010203FFFE, 0x0101800102030102, 0x0080000204060000),
    (.paddw, 0xFF7F80010203FFFE, 0x0101800102030102, 0x0080000204060100),
    (.paddd, 0xFF7F80010203FFFE, 0x0101800102030102, 0x0081000204070100),
    (.paddsb, 0x7F7F7F7F80808080, 0x01FF7F8001FF8080, 0x7F7E7FFF81808080),
    (.paddsw, 0x7F7F808001FF0010, 0x0101FFFF02018020, 0x7FFF807F04008030),
    (.paddusb, 0xFFFF80807F010000, 0x0101808080FF00FF, 0xFFFFFFFFFFFF00FF),
    (.paddusw, 0x7F7F808001FF0010, 0x0101FFFF02018020, 0x8080FFFF04008030)] := by decide

/-- 2.3. -/
theorem test_logic_compare : Gives [
    (.pand, 0x0123456789ABCDEF, 0xFF00FF00F0F0F0F0, 0x0100450080A0C0E0),
    (.pandn, 0x0123456789ABCDEF, 0xFF00FF00F0F0F0F0, 0xFE00BA0070503010),
    (.por, 0x0123456789ABCDEF, 0xFF00FF00F0F0F0F0, 0xFF23FF67F9FBFDFF),
    (.pxor, 0x0123456789ABCDEF, 0xFF00FF00F0F0F0F0, 0xFE23BA67795B3D1F),
    (.pcmpeqb, 0x00007FFF80FF0100, 0x0000FFFF7FFF0100, 0xFFFF00FF00FFFFFF),
    (.pcmpeqw, 0x0001000200030004, 0x0001FF0200030005, 0xFFFF0000FFFF0000),
    (.pcmpeqd, 0x0000000100000002, 0x0000000100000003, 0xFFFFFFFF00000000),
    (.pcmpgtb, 0x7F80FF0001810080, 0x807FFE01007F0080, 0xFF00FF00FF000000),
    (.pcmpgtw, 0x7FFF8000FFFF0001, 0x80007FFFFFFE0000, 0xFFFF0000FFFFFFFF),
    (.pcmpgtd, 0x7FFFFFFF80000000, 0x800000007FFFFFFF, 0xFFFFFFFF00000000)] := by decide

/-- 2.4. -/
theorem test_multiply : Gives [
    (.pmaddwd, 0x8000800000030002, 0x8000800000050004, 0x8000000000000017),
    (.pmaddwd, 0x7FFF8000FFFF0100, 0x7FFF7FFFFFFF0100, 0xFFFF800100010001),
    (.pmulhw, 0x80008000FFFF0002, 0x80007FFF00014000, 0x4000C000FFFF0000),
    (.pmullw, 0x80008000FFFF0002, 0x80007FFF00014000, 0x00008000FFFF8000)] := by decide

/-- 2.5, the register forms; a count of 256 is 0 in its low byte. -/
theorem test_shift_register : Gives [
    (.psllw, 0x8001F00F12345678, 256, 0), (.pslld, 0x8001F00F12345678, 31, 0x8000000000000000),
    (.psllq, 0x8001F00F12345678, 32, 0x1234567800000000), (.psrlw, 0x8001F00F12345678, 15, 0x0001000100000000),
    (.psrld, 0x8001F00F12345678, 256, 0), (.psrlq, 0x8001F00F12345678, 63, 1),
    (.psraw, 0x8001F00F12345678, 256, 0xFFFFFFFF00000000), (.psrad, 0x8001F00F12345678, 15, 0xFFFF000300002468)] := by decide

/-- 2.5, the immediate forms. -/
theorem test_shift_immediate : ShiftGives [
    (.psllwImm, 4, 0x001000F023406780), (.pslldImm, 8, 0x01F00F0034567800), (.psllqImm, 1, 0x0003E01E2468ACF0),
    (.psrlwImm, 16, 0), (.psrldImm, 16, 0x0000800100001234), (.psrlqImm, 31, 0x000000010003E01E),
    (.psrawImm, 8, 0xFF80FFF000120056), (.psradImm, 255, 0xFFFFFFFF00000000)] := by decide

/-- 2.6. -/
theorem test_psub : Gives [
    (.psubb, 0x7F7F808001FF0010, 0x0101FFFF02018020, 0x7E7E8181FFFE80F0),
    (.psubw, 0x7F7F808001FF0010, 0x0101FFFF02018020, 0x7E7E8081FFFE7FF0),
    (.psubd, 0x7F7F808001FF0010, 0x0101FFFF02018020, 0x7E7D8081FFFD7FF0),
    (.psubsb, 0x7F7F808000000000, 0xFF01017F80800101, 0x7F7E80807F7FFFFF),
    (.psubsw, 0x7FFF800000008000, 0xFFFF000180007FFF, 0x7FFF80007FFF8000),
    (.psubusb, 0x00102080FFFF0100, 0x01201080FF000201, 0x0000100000FF0000),
    (.psubusw, 0x00001000FFFF8000, 0x000120000001FFFF, 0x00000000FFFE0000)] := by decide

/-- 2.7. -/
theorem test_unpack : Gives [
    (.punpckhbw, 0x0706050403020100, 0x8786858483828180, 0x8707860685058404),
    (.punpckhwd, 0x0706050403020100, 0x8786858483828180, 0x8786070685840504),
    (.punpckhdq, 0x0706050403020100, 0x8786858483828180, 0x8786858407060504),
    (.punpcklbw, 0x0706050403020100, 0x8786858483828180, 0x8303820281018000),
    (.punpcklwd, 0x0706050403020100, 0x8786858483828180, 0x8382030281800100),
    (.punpckldq, 0x0706050403020100, 0x8786858483828180, 0x8382818003020100)] := by decide

/-- 2.7: a memory source of PUNPCKLBW is 4 bytes, and in real-address mode (2.9) it may end at offset 0xFFFF, not later. -/
theorem test_unpack_memory :
    seen (·.getMm .mm0) (exec (.punpcklbw .mm0 (.mem ⟨none, .a32 .ebx .none⟩))
      (put { m32 with mm := { m32.mm with mm0 := 0x0706050403020100 } } 0x3000 [0x80, 0x81, 0x82, 0x83, 0xFF]))
      = some 0x8303820281018000 ∧
    seen (·.getMm .mm0) (exec (.punpcklbw .mm0 (.mem ⟨none, .abs16 0xFFFC⟩)) m32) = some 0 ∧
    exnOf (exec (.punpcklbw .mm0 (.mem ⟨none, .abs16 0xFFFD⟩)) m32) = some (.gp none) := by decide

/-- 2.9: `#UD` before `#NM` before `#MF`, and the limits of PADDB with a memory operand. -/
theorem test_mmx_exceptions :
    let i : Instr := .paddb .mm0 (.mem ⟨none, .a32 .ebx .none⟩)
    exnOf (exec i { m32 with cr0 := { m32.cr0 with em := true, ts := true } }) = some .ud ∧
    exnOf (exec i { m32 with cr0 := { m32.cr0 with ts := true } }) = some .nm ∧
    exnOf (exec i { m32 with fpuPending := true }) = some .mf ∧
    exnOf (exec i (m32.setReg .ebx 0xFFF9)) = some (.gp none) ∧
    exnOf (exec i (vm.setReg .ebx 0xFFF9)) = some (.gp (some 0)) ∧
    exnOf (exec i (pm.setReg .ebx 0xFFFFFFF9)) = some (.gp (some 0)) := by decide

/-- 2.10: PUSH EAX, PUSH ESP, PUSH [ESP], PUSH imm8 in both sizes, PUSH imm32. -/
theorem test_push :
    let out := fun (i : Instr) (n : Nat) =>
      seen (fun t => (t.reg .esp, bytesAt t (t.reg .esp).toNat n)) (exec i (put m32 0x1000 [0xBE, 0xBA, 0xFE, 0xCA]))
    out (.pushR32 .eax) 4 = some (0x0FFC, [0x78, 0x56, 0x34, 0x12]) ∧
    out (.pushR16 .eax) 2 = some (0x0FFE, [0x78, 0x56]) ∧
    out (.pushR32 .esp) 4 = some (0x0FFC, [0x00, 0x10, 0x00, 0x00]) ∧
    out (.pushRm32 (.mem ⟨none, .sib .esp 0 .esp .none⟩)) 4 = some (0x0FFC, [0xBE, 0xBA, 0xFE, 0xCA]) ∧
    out (.pushRm16 (.mem ⟨none, .sib .esp 0 .esp .none⟩)) 2 = some (0x0FFE, [0xBE, 0xBA]) ∧
    out (.pushImm8 .w32 0xFF) 4 = some (0x0FFC, [0xFF, 0xFF, 0xFF, 0xFF]) ∧
    out (.pushImm8 .w16 0x80) 2 = some (0x0FFE, [0x80, 0xFF]) ∧
    out (.pushImm16 0x1234) 2 = some (0x0FFE, [0x34, 0x12]) ∧
    out (.pushImm32 0x12345678) 4 = some (0x0FFC, [0x78, 0x56, 0x34, 0x12]) := by decide

/-- 2.10: PUSH sreg stores the selector; the two bytes above it are the free value. -/
theorem test_push_sreg :
    ∀ p ∈ ([(.pushCs, .cs), (.pushSs, .ss), (.pushDs, .ds), (.pushEs, .es), (.pushFs, .fs), (.pushGs, .gs)] :
        List ((OpSize → Instr) × SReg)),
      seen (fun t => (t.reg .esp, bytesAt t 0x0FFE 2)) (exec (p.1 .w16) (m32.setSeg p.2 { m32.seg p.2 with sel := 0xABCD }))
        = some (0x0FFE, [0xCD, 0xAB]) := by decide

/-- 2.10: a 16-bit stack pointer wraps and the upper half of ESP stays; at SP = 1 a push shuts down in real-address mode,
and a store across the limit raises in virtual-8086 mode. -/
theorem test_push_wrap :
    seen (fun t => (t.reg .esp, bytesAt t 0xFFFE 2)) (exec (.pushR16 .eax) (withEsp m16 0x12340000))
      = some (0x1234FFFE, [0x78, 0x56]) ∧
    seen (fun t => (t.shutdown, t.reg .esp)) (exec (.pushR16 .eax) (withEsp m16 1)) = some (true, 1) ∧
    exnOf (exec (.pushR16 .eax) (withEsp vm 1)) = some (.ss (some 0)) := by decide

/-- 2.10: POP EAX, POP ESP, POP [ESP], POP [EBX], and a read that passes the limit of the stack. -/
theorem test_pop :
    let s := put m32 0x1000 [0x11, 0x30, 0x00, 0x00]
    seen (fun t => (t.reg .eax, t.reg .esp)) (exec (.popR32 .eax) s) = some (0x3011, 0x1004) ∧
    seen (fun t => (t.reg .eax, t.reg .esp)) (exec (.popR16 .eax) s) = some (0x12343011, 0x1002) ∧
    seen (fun t => t.reg .esp) (exec (.popR32 .esp) s) = some 0x3011 ∧
    seen (fun t => (t.reg .esp, bytesAt t 0x1004 4)) (exec (.popM32 ⟨none, .sib .esp 0 .esp .none⟩) s)
      = some (0x1004, [0x11, 0x30, 0, 0]) ∧
    seen (fun t => (t.reg .esp, bytesAt t 0x3000 2)) (exec (.popM16 ⟨none, .a32 .ebx .none⟩) s) = some (0x1002, [0x11, 0x30]) ∧
    exnOf (exec (.popR32 .eax) (s.setSeg .ss (flat 0x1002 true))) = some (.ss none) := by decide

/-- 2.10: POP of a segment register in real-address mode sets the base to 16 times the selector. -/
theorem test_pop_sreg :
    ∀ p ∈ ([(.popDs, .ds), (.popEs, .es), (.popFs, .fs), (.popGs, .gs), (.popSs, .ss)] : List ((OpSize → Instr) × SReg)),
      seen (fun t => ((t.seg p.2).sel, (t.seg p.2).hid.base, t.reg .esp, t.inhibit))
        (exec (p.1 .w16) (put m16 0x1000 [0x00, 0x20])) = some (0x2000, 0x20000, 0x1002, p.2 == .ss) := by decide

/-- 2.11: PUSHAD, and POPAD after it with the image of ESP overwritten. -/
theorem test_push_pop_all :
    let s : State := { m32 with regs := ⟨0, 1, 2, 3, 0x1000, 5, 6, 7⟩ }
    seen (fun t => (t.reg .esp, (List.range 8).map fun k => t.mem.read (0x0FE0 + 4 * k), t.mem.read 0x0FED)) (exec .pushad s)
      = some (0x0FE0, [7, 6, 5, 0, 3, 2, 1, 0], 0x10) ∧
    seen (fun t => t.regs) (exec .popad
      (put (withEsp m32 0x0FE0) 0x0FE0 [7,0,0,0, 6,0,0,0, 5,0,0,0, 0xEF,0xBE,0xAD,0xDE, 3,0,0,0, 2,0,0,0, 1,0,0,0, 0,0,0,0]))
      = some s.regs := by decide

/-- 2.11: PUSHA and POPA with 16-bit sizes leave the upper halves; a stack pointer of 5 shuts down, one of 7 raises. -/
theorem test_push_pop_all_16 :
    let s : State := { m16 with regs := ⟨0xAAAA0010, 0xAAAA0011, 0xAAAA0012, 0xAAAA0013, 0xAAAA0100, 0xAAAA0015, 0xAAAA0016, 0xAAAA0017⟩ }
    seen (fun t => (t.reg .esp, (List.range 8).map fun k => t.mem.read (0xF0 + 2 * k), t.mem.read 0xF7)) (exec .pusha s)
      = some (0xAAAA00F0, [0x17, 0x16, 0x15, 0, 0x13, 0x12, 0x11, 0x10], 1) ∧
    seen (fun t => (t.reg .edi, t.reg .eax, t.reg .esp)) (exec .popa (put s 0x100 [0x34, 0x12]))
      = some (0xAAAA1234, 0xAAAA0000, 0xAAAA0110) ∧
    seen (·.shutdown) (exec .pusha (withEsp m16 5)) = some true ∧
    exnOf (exec .pusha (withEsp m16 7)) = some (.gp none) := by decide

/-- 2.12: PUSHFD clears VM and RF in the image; PUSHF; POPFD and POPF in real-address mode. -/
theorem test_flags :
    seen (fun t => bytesAt t 0x0FFC 4) (exec .pushfd { m32 with eflags := 0x00010246 }) = some [0x46, 0x02, 0, 0] ∧
    seen (fun t => bytesAt t 0x0FFE 2) (exec .pushf { m32 with eflags := 0x00000246 }) = some [0x46, 0x02] ∧
    seen (·.eflags) (exec .popfd (put { m32 with eflags := 2 } 0x1000 [0xFF, 0xFF, 0xFF, 0xFF])) = some 0x00257FD7 ∧
    seen (·.eflags) (exec .popfd (put { m32 with eflags := 0x00180202 } 0x1000 [0, 0, 2, 0])) = some 2 ∧
    seen (·.eflags) (exec .popf (put { m32 with eflags := 2 } 0x1000 [0xFF, 0xFF])) = some 0x00007FD7 ∧
    exnOf (exec .popf { vm with eflags := 0x00020202 }) = some (.gp (some 0)) := by decide

/-- 2.12: the flag rules of protected mode at level 3 and of virtual-8086 mode. -/
theorem test_popf_levels :
    popfFlags .prot 3 .w32 0x00000202 0x00003000 = 0x00000202 ∧ popfFlags .prot 3 .w32 0x00000202 0x00003CD5 = 0x00000ED7 ∧
    popfFlags .prot 3 .w32 0x00003202 0x00000001 = 0x00003003 ∧ popfFlags .v86 3 .w16 0x00023202 0x0CD5 = 0x00023CD7 := by
  decide

/-! ## Witnesses: states and operands that meet the hypotheses of the statements

Real-address mode needs no open parameter. Where a hypothesis can be met in protected or virtual-8086 mode only, and
memory is reached there, the witness takes as a premise what `Translate` or `DescLookup` answers, for neither has a
value that Lean can compute. -/

/-- PXOR MM0, [BX+SI] as the program, in 16-bit code. -/
def loaded : State := m16.withFetchWord 16 0x0FEF

/-- The processor has shut down. -/
def downState : State := { m16 with shutdown := true }

theorem witness_DecodeReadsWhatEncodeWrote :
    (Instr.popM32 ⟨some .fs, .sib .esp 3 .esp (.d32 0x80000000)⟩).wf = true ∧ (Instr.pusha).wf = true := by decide

theorem witness_DecodedLengthIsConsumedBytes :
    decode true [0x66, 0x61, 0x90] = .ok (.popa, [0x90]) ∧
    decode true [0x64, 0x67, 0x8F, 0x06, 0x34, 0x12] = .ok (.popM32 ⟨some .fs, .abs16 0x1234⟩, []) := ⟨rfl, rfl⟩

theorem witness_OnlyAdmittedPrefixesDecode :
    (okOf (decode true [0x0F, 0xEF, 0xC0])).map (fun p => (isMmx p.1, memOperand p.1)) = some (true, none) ∧
    (okOf (decode true [0x66, 0x26, 0x67, 0xFF, 0x37])).map (fun p => memOperand p.1) =
      some (some ⟨some .es, .a16 .bx .none⟩) := by decide

theorem witness_ShiftGroupsWithoutRowRefused :
    modField 0x30 ≠ 3 ∧ regField 0xF8 ∈ [0, 1, 3, 5, 7] ∧ modField 0xF8 = 3 ∧ regField 0xE0 = 4 := by decide

theorem witness_StepRunsDecodedInstruction :
    loaded.shutdown = false ∧
    okOf (decode (loaded.seg .cs).hid.db (fetch loaded)) =
      some (.pxor .mm0 (.mem ⟨none, .a16 .bxsi .none⟩), List.replicate 12 0) ∧
    seen (·.pc) (step loaded) = some 0x103 := by decide

theorem witness_StepRefusesWhatDoesNotDecode :
    downState.shutdown = true ∧
    errOf (decode false (fetch m16)) = some .truncated ∧
    errOf (decode false (fetch (m16.withFetchWord 8 0xF4))) = some (.noRow 0xF4) := by decide

/-- PUSH AX as the program, with a stack pointer of 1. -/
def exhausted : State := (withEsp m16 1).withFetchWord 8 0x50

/-- A step that completes, and one that shuts the processor down. -/
theorem witness_LaunchInvariantKept :
    Launch loaded ∧ seen (·.shutdown) (step loaded) = some false ∧
    Launch exhausted ∧ seen (·.shutdown) (step exhausted) = some true :=
  ⟨⟨⟨by decide, by decide, by decide, by decide, by decide, fun _ S => by cases S <;> rfl, by decide⟩, rfl⟩, by decide,
    ⟨⟨by decide, by decide, by decide, by decide, by decide, fun _ S => by cases S <;> rfl, by decide⟩, rfl⟩, by decide⟩

theorem witness_ModeAndLevelConstant : seen (·.mode) (step loaded) = some .real := by decide

theorem witness_OnlyPopfWritesFlags :
    (seen (·.eflags) (exec .popf m16)).isSome = true ∧ (seen (·.eflags) (exec (.pushImm8 .w16 1) m16)).isSome = true := by
  decide

theorem witness_CompletedInstructionAdvancesPc :
    seen (fun t => (t.shutdown, t.pc)) (exec (.pushR16 .eax) (withEsp m16 1)) = some (true, 0x100) ∧
    seen (fun t => (t.shutdown, t.pc)) (exec (.pushR16 .eax) { m16 with pc := 0xFFFFFFFF }) = some (false, 0) := by decide

theorem witness_InhibitAfterPopSsAlone :
    seen (fun t => (t.shutdown, t.inhibit)) (exec (.popSs .w16) m16) = some (false, true) ∧
    seen (fun t => (t.shutdown, t.inhibit)) (exec (.popDs .w16) { m16 with inhibit := true }) = some (false, false) ∧
    seen (·.shutdown) (exec (.popSs .w16) { m16 with inhibit := true }) = some false ∧
    exnOf (exec (.paddb .mm0 (.reg .mm1)) { m16 with inhibit := true, fpuPending := true }) = some .mf := by decide

theorem witness_ExceptionUndoesInstruction :
    exec .pusha (withEsp m16 15) = .fault (.exception (.gp none) { withEsp m16 15 with inhibit := false }) := rfl

theorem witness_ProgramTextNeverStoredInto :
    (seen (·.pc) (step loaded)).isSome = true ∧ inRegions loaded.text 0x100 = true ∧
    (∀ p ∈ [0xFF, 0x100], inRegions loaded.admitted p = true) ∧ (∃ p ∈ [0xFF, 0x100], inRegions loaded.text p = true) := by
  decide

theorem witness_ErrorCodesByMode :
    exnOf (exec .pusha (withEsp m16 15)) = some (.gp none) ∧ exnOf (exec .pusha (withEsp vm 15)) = some (.gp (some 0)) ∧
    exnOf (exec (.popSs .w32) (pm.setSeg .ss { flat 2 true with hid := { (flat 2 true).hid with null := true } }))
      = some (.gp (some 0)) ∧ m16.mode = .real ∧ vm.mode = .v86 ∧ pm.mode = .prot := by decide

/-- A read of a dword on the stack of `pm` when `Translate` is the identity on its bytes. -/
theorem pm_read (h : ∀ lin u, Config.translate [] lin false u = .phys lin.toNat) :
    memRead .integer .ss 0x1000 4 pm = .ok 0 := by
  have hs : segmentCheck .integer false .ss 0x1000 4 pm = .ok () := rfl
  have ht : translateBytes false pm (pm.linear .ss 0x1000) 4 = .ok [0x1000, 0x1001, 0x1002, 0x1003] := by
    simp only [translateBytes, translateByte, show pm.mode = .prot from rfl, show pm.mem = [] from rfl, h]; rfl
  unfold memRead access; rw [hs, ht]; rfl

/-- A read of a word on the stack of `vm` when `Translate` is the identity on its bytes. -/
theorem vm_read (h : ∀ lin u, Config.translate [] lin false u = .phys lin.toNat) :
    memRead .integer .ss 0x1000 2 vm = .ok 0 := by
  have hs : segmentCheck .integer false .ss 0x1000 2 vm = .ok () := rfl
  have ht : translateBytes false vm (vm.linear .ss 0x1000) 2 = .ok [0x1000, 0x1001] := by
    simp only [translateBytes, translateByte, show vm.mode = .v86 from rfl, show vm.mem = [] from rfl, h]; rfl
  unfold memRead access; rw [hs, ht]; rfl

/-- A page fault of the second byte of a word read at CPL 3, when `Translate` says so: bits 0 and 2 of the code are set. -/
theorem witness_ErrorCodesByMode_pf (h0 : Config.translate [] 0x1000 false true = .phys 0x1000)
    (h1 : Config.translate [] 0x1001 false true = .pageFault true) :
    segmentCheck .integer false .ss 0x1000 2 vm = .ok () ∧
    translateByte false vm (vm.linear .ss 0x1000 + BitVec.ofNat 32 0) = .ok 0x1000 ∧
    translateByte false vm (vm.linear .ss 0x1000 + BitVec.ofNat 32 1) = .error (.raise (.pf 0x1001 5)) ∧
    access .integer false .ss 0x1000 2 vm = .error (.raise (.pf 0x1001 5)) := by
  have hs : segmentCheck .integer false .ss 0x1000 2 vm = .ok () := rfl
  have ht : translateBytes false vm (vm.linear .ss 0x1000) 2 = .error (.raise (.pf 0x1001 5)) := by
    simp only [translateBytes, translateByte, show vm.mode = .v86 from rfl, show vm.mem = [] from rfl,
      show vm.linear .ss 0x1000 = 0x1000 from rfl, show (0x1000 : Dword) + 1 = 0x1001 from rfl,
      show decide (vm.cpl = 3) = true from rfl, h0, h1]
    rfl
  refine ⟨hs, ?_, ?_, by unfold access; rw [hs, ht]; rfl⟩
  · simp only [translateByte, show vm.mode = .v86 from rfl, show vm.mem = [] from rfl,
      show vm.linear .ss 0x1000 + BitVec.ofNat 32 0 = 0x1000 from rfl, show decide (vm.cpl = 3) = true from rfl, h0]
  · simp only [translateByte, show vm.mode = .v86 from rfl, show vm.mem = [] from rfl,
      show vm.linear .ss 0x1000 + BitVec.ofNat 32 1 = 0x1001 from rfl, show decide (vm.cpl = 3) = true from rfl, h1]
    rfl

theorem witness_WhoRaisesWhichException :
    exnOf (exec (.pxor .mm0 (.reg .mm1)) { m16 with fpuPending := true }) = some .mf ∧
    isMmx (.pxor .mm0 (.reg .mm1)) = true ∧ memOperand (.pxor .mm0 (.reg .mm1)) = none := by decide

/-- `#NP`: a segment that is not present, popped into DS. -/
theorem witness_WhoRaisesWhichException_np (dd : Descriptor) (hd : dd = { (flat 0 true).hid.toDescriptor with present := false }) :
    loadDataSeg (.found dd) .ds 8 pm = .error (.raise (.np 8)) := by subst hd; rfl

theorem witness_MmxAvailabilityChecks :
    isMmx (.psradImm .mm7 255) = true ∧ ({ m16 with cr0 := { m16.cr0 with em := true } } : State).cr0.em = true ∧
    ({ m16 with fpuPending := true } : State).cr0 = { pe := false, em := false, ts := false, am := false } := by decide

/-- Operands of 8 and of 4 bytes that pass offset 0xFFFF by one byte, through SS too. -/
theorem witness_MmxAvailabilityChecks_operand :
    (let m : MemOp := ⟨none, .abs32 0xFFF9⟩
     mmxAvailable m32 = true ∧ memOperand (.paddw .mm1 (.mem m)) = some m ∧
     errOf (memRead .mmx (MemOp.segment m) (effectiveAddr m32 m.addr) 8 m32) = some (.raise (.gp none)) ∧
     exnOf (exec (.paddw .mm1 (.mem m)) m32) = some (.gp none)) ∧
    (let m : MemOp := ⟨some .ss, .abs32 0xFFFD⟩
     memOperand (.punpckldq .mm1 (.mem m)) = some m ∧
     errOf (memRead .mmx (MemOp.segment m) (effectiveAddr m32 m.addr) 4 m32) = some (.raise (.gp none)) ∧
     exnOf (exec (.punpckldq .mm1 (.mem m)) m32) = some (.gp none)) := by decide

theorem witness_MmxWritesDestinationAlone :
    mmDest (.psllqImm .mm7 63) = some .mm7 ∧ (seen (·.pc) (exec (.psllqImm .mm7 63) m16)).isSome = true ∧
    mmDest (.popR16 .eax) = none ∧ (seen (·.pc) (exec (.popR16 .eax) m16)).isSome = true := by decide

/-- For every statement in the terms of `MmxResult` and `MmxImmResult`, and for `SameRegisterSourceAndDestination`. -/
theorem witness_MmxResult :
    mmxAvailable m32 = true ∧ mmxOperand (.reg .mm0) 8 m32 = .ok 0 ∧
    mmxOperand (.mem ⟨none, .a32 .ebx .none⟩) 8 m32 = .ok 0 ∧
    mmxOperand (.mem ⟨none, .abs32 0xFFF8⟩) 8 m32 = .ok 0 ∧
    mmxOperand (.mem ⟨some .gs, .abs32 0xFFFC⟩) 4 (put m32 0xFFFC [1, 2, 3, 4]) = .ok 0x04030201 := ⟨rfl, rfl, rfl, rfl, rfl⟩

theorem witness_BitwiseInstructions : mmxAvailable { m32 with fpuPending := true } = false := by decide

theorem witness_NullSegmentRaisesGp :
    let s := pm.setSeg .ds { pm.seg .ds with hid := { (pm.seg .ds).hid with null := true } }
    s.mode = .prot ∧ (s.seg .ds).hid.null = true ∧ mmxAvailable s = true ∧
    memOperand (.pxor .mm0 (.mem ⟨none, .a32 .ebx .none⟩)) = some ⟨none, .a32 .ebx .none⟩ ∧
    memOperand (.pushRm16 (.mem ⟨none, .a32 .ebx .none⟩)) = some ⟨none, .a32 .ebx .none⟩ ∧
    MemOp.segment ⟨none, .a32 .ebx .none⟩ = .ds := by decide

/-- Both kinds of segment at their boundary; a limit that fails for a read and for a write, through DS and through SS; a read
and a write that step 2 denies. -/
theorem witness_LimitCheckOfProtectedMode :
    let down := { (flat 0x0FFF true).hid with expdown := true }
    inLimit down 0x1000 8 = true ∧ inLimit down 0x0FFF 8 = false ∧ inLimit down 0xFFFFFFF9 8 = false ∧
    inLimit { down with db := false } 0xFFF8 8 = true ∧ inLimit { down with db := false } 0xFFF9 8 = false ∧
    inLimit (flat 0x0FFF true).hid 0x0FF8 8 = true ∧ inLimit (flat 0x0FFF true).hid 0x0FF9 8 = false ∧
    (let s := (pm.setSeg .ds (flat 0x0FFF true)).setSeg .ss (flat 0x0FFF true)
     s.mode = .prot ∧ (s.seg .ds).hid.null = false ∧ (s.seg .ss).hid.null = false ∧ (s.seg .ss).hid.code = false ∧
     (s.seg .ss).hid.writable = true ∧ inLimit (s.seg .ss).hid 0x0FFD 4 = false) ∧
    (let s := pm.setSeg .ds { pm.seg .ds with hid := { Hidden.resetCode with readable := false } }
     s.mode = .prot ∧ (s.seg .ds).hid.null = false ∧ (s.seg .ds).hid.code = true ∧ (s.seg .ds).hid.readable = false) ∧
    (let s := pm.setSeg .ds { pm.seg .ds with hid := { (pm.seg .ds).hid with writable := false } }
     s.mode = .prot ∧ (s.seg .ds).hid.null = false ∧ (s.seg .ds).hid.writable = false) := by decide

theorem witness_LimitCheckOutsideProtectedMode :
    m16.mode ≠ .prot ∧ vm.mode ≠ .prot ∧ (∃ k, k < 8 ∧ 0xFFFF < (0xFFF9 : Dword).toNat + k) ∧
    (¬∃ k, k < 8 ∧ 0xFFFF < (0xFFF8 : Dword).toNat + k) ∧ inLimit (m16.seg .ss).hid 0xFFFF 2 = false ∧
    inLimit (m16.seg .ss).hid 0xFFFE 2 = true ∧ segmentCheck .integer true .ss 0xFFFF 2 m16 = .error (.raise (.ss none)) ∧
    segmentCheck .mmx false .ss 0xFFF9 8 vm = .error (.raise (.gp (some 0))) := by
  refine ⟨?_, ?_, ?_, ?_, ?_, ?_, rfl, rfl⟩ <;> decide

/-- Virtual-8086 mode with the alignment check on. -/
def vmAc : State := { vm with cr0 := { vm.cr0 with am := true }, eflags := 0x00063202 }

/-- `#AC` at an odd address, when `Translate` is the identity. -/
theorem witness_AlignmentCheckIsLast (h : ∀ lin u, Config.translate [] lin false u = .phys lin.toNat) :
    segmentCheck .integer false .ss 0x1001 2 vmAc = .ok () ∧
    translateBytes false vmAc (vmAc.linear .ss 0x1001) 2 = .ok [0x1001, 0x1002] ∧
    alignCheck (vmAc.linear .ss 0x1001) 2 vmAc = .error (.raise .ac) ∧
    access .integer false .ss 0x1001 2 vmAc = .error (.raise .ac) := by
  have hs : segmentCheck .integer false .ss 0x1001 2 vmAc = .ok () := by decide
  have ht : translateBytes false vmAc (vmAc.linear .ss 0x1001) 2 = .ok [0x1001, 0x1002] := by
    simp only [translateBytes, translateByte, show vmAc.mode = .v86 from rfl, show vmAc.mem = [] from rfl, h]; rfl
  exact ⟨hs, ht, rfl, by unfold access; rw [hs, ht]; rfl⟩

theorem witness_StoreIsLittleEndianAndReadBack :
    m16.mode = .real ∧ seen (fun t => bytesAt t 0x2000 4)
      (settle .pusha false m16 (memWrite .ds 0x2000 4 0xAABBCCDD m16)) = some [0xDD, 0xCC, 0xBB, 0xAA] := by decide

theorem witness_PopRegister :
    memRead .integer .ss m32.sp 4 m32 = .ok 0 ∧ memRead .integer .ss m32.sp 2 m32 = .ok 0 ∧
    memRead .integer .ss (withEsp m16 0xFFFD).sp 4 (withEsp m16 0xFFFD) = .error (.raise (.ss none)) ∧
    memRead .integer .ss (withEsp m16 0xFFFF).sp 2 (withEsp m16 0xFFFF) = .error (.raise (.ss none)) := ⟨rfl, rfl, rfl, rfl⟩

theorem witness_PopMemory :
    memRead .integer .ss m32.sp 4 m32 = .ok 0 ∧ popWraps .w32 ⟨none, .sib .esp 0 .esp .none⟩ m32 = false ∧
    (let p := m32.setSp (m32.spPlus 4)
     access .integer true .ss (popDestOffset .w32 ⟨none, .sib .esp 0 .esp .none⟩ m32 p) 4 p
       = .ok [0x1004, 0x1005, 0x1006, 0x1007]) ∧
    (let p := m32.setSp (m32.spPlus 2)
     access .integer true .ds (popDestOffset .w16 ⟨none, .a32 .ebx .none⟩ m32 p) 2 p = .ok [0x3000, 0x3001]) ∧
    memRead .integer .ss 0xFFFF 2 (withEsp m16 0xFFFF) = .error (.raise (.ss none)) ∧
    (let p := m16.setSp (m16.spPlus 2)
     memRead .integer .ss m16.sp 2 m16 = .ok 0 ∧
     access .integer true .ds (popDestOffset .w16 ⟨none, .abs16 0xFFFF⟩ m16 p) 2 p = .error (.raise (.gp none))) :=
  ⟨rfl, rfl, rfl, rfl, rfl, rfl, rfl⟩

theorem witness_PopSegmentOutsideProtectedMode (h : ∀ lin u, Config.translate [] lin false u = .phys lin.toNat) :
    m16.mode ≠ .prot ∧ memRead .integer .ss m16.sp 2 m16 = .ok 0 ∧ memRead .integer .ss m16.sp 4 m16 = .ok 0 ∧
    vm.mode ≠ .prot ∧ memRead .integer .ss vm.sp 2 vm = .ok 0 := ⟨by decide, rfl, rfl, by decide, vm_read h⟩

theorem witness_PopSegmentLoadsByMode (h : ∀ lin u, Config.translate [] lin false u = .phys lin.toNat) :
    errOf (pop .w16 (withEsp m16 0xFFFF)) = some (.raise (.ss none)) ∧
    (okOf (pop .w16 m16)).isSome = true ∧ (okOf (loadSeg .es 0x2000 m16)).isSome = true ∧
    pop .w32 pm = .ok (0, pm.setSp 0x1004) ∧ loadSeg .ss 0 (pm.setSp 0x1004) = .error (.raise (.gp (some 0))) := by
  refine ⟨by decide, by decide, by decide, ?_, rfl⟩
  unfold pop
  rw [show memRead .integer .ss pm.sp (opBytes .w32) pm = .ok 0 from pm_read h]; rfl

/-- A null selector, a bad descriptor, one that is not present, and one that loads. -/
theorem witness_LoadStackSegmentChecks :
    let d := (flat 0 true).hid.toDescriptor
    isNullSel 3 = true ∧ isNullSel 4 = false ∧ selRPL 8 = pm.cpl ∧ selRPL 9 ≠ pm.cpl ∧
    d.code = false ∧ d.writable = true ∧ d.dpl = pm.cpl ∧ d.present = true ∧
    errOf (loadStackSeg (.found { d with present := false }) 8 pm) = some (.raise (.ss (some 8))) ∧
    (okOf (loadStackSeg (.found d) 8 pm)).isSome = true := by decide

theorem witness_LoadDataSegmentChecks :
    let d := (flat 0 true).hid.toDescriptor
    isNullSel 8 = false ∧ errOf (loadDataSeg .outsideTable .ds 8 pm) = some (.raise (.gp (some 8))) ∧
    errOf (loadDataSeg (.found { d with present := false }) .fs 8 pm) = some (.raise (.np 8)) ∧
    (okOf (loadDataSeg (.found d) .gs 9 pm)).isSome = true := by decide

theorem witness_NullSelectorMayBeLoaded : (3 : Word).toNat ≤ 3 ∧ (0 : Word).toNat ≤ 3 ∧ pm.mode = .prot := by decide

/-- Every read passes; and the first, or only the last, passes the limit of the stack. -/
theorem witness_PopAllNetEffect :
    (∀ k, k < 8 → k ≠ 3 → memRead .integer .ss (m32.spPlus (4 * k)) 4 m32 = .ok 0) ∧
    (∀ k, k < 8 → k ≠ 3 → memRead .integer .ss (m16.spPlus (2 * k)) 2 m16 = .ok 0) ∧
    (let s := withEsp m16 0xFFFF
     memRead .integer .ss (s.spPlus (2 * 0)) 2 s = .error (.raise (.ss none))) ∧
    (let s := withEsp m16 0xFFE2
     (∀ j, j < 7 → j ≠ 3 → memRead .integer .ss (s.spPlus (4 * j)) 4 s = .ok 0) ∧
     memRead .integer .ss (s.spPlus (4 * 7)) 4 s = .error (.raise (.ss none))) := by
  have h1 : ∀ k, k < 8 → k ≠ 3 → okOf (memRead .integer .ss (m32.spPlus (4 * k)) 4 m32) = some 0 := by decide
  have h2 : ∀ k, k < 8 → k ≠ 3 → okOf (memRead .integer .ss (m16.spPlus (2 * k)) 2 m16) = some 0 := by decide
  have h3 : ∀ k, k < 7 → k ≠ 3 →
      okOf (memRead .integer .ss ((withEsp m16 0xFFE2).spPlus (4 * k)) 4 (withEsp m16 0xFFE2)) = some 0 := by decide
  exact ⟨fun k hk h => eq_ok (h1 k hk h), fun k hk h => eq_ok (h2 k hk h), rfl, fun k hk h => eq_ok (h3 k hk h), rfl⟩

/-- In each mode; protected and virtual-8086 mode when `Translate` is the identity. -/
theorem witness_PopFlagsByMode (h : ∀ lin u, Config.translate [] lin false u = .phys lin.toNat) :
    m32.mode = .real ∧ memRead .integer .ss m32.sp 4 m32 = .ok 0 ∧ memRead .integer .ss m32.sp 2 m32 = .ok 0 ∧
    pm.mode = .prot ∧ memRead .integer .ss pm.sp 4 pm = .ok 0 ∧
    ¬(vm.mode = .v86 ∧ flagIOPL vm.eflags ≠ 3) ∧ memRead .integer .ss vm.sp 2 vm = .ok 0 ∧
    memRead .integer .ss 0xFFFF 2 (withEsp m16 0xFFFF) = .error (.raise (.ss none)) ∧
    memRead .integer .ss 0xFFFD 4 (withEsp m16 0xFFFD) = .error (.raise (.ss none)) :=
  ⟨by decide, rfl, rfl, by decide, pm_read h, by decide, vm_read h, rfl, rfl⟩

theorem witness_PopFlagsNeverDoes :
    (popfFlags .v86 3 .w32 0x001A3202 0).getLsbD 19 = true ∧ (popfFlags .v86 3 .w32 0x001A3202 0).getLsbD 20 = true ∧
    (3 : BitVec 2) > flagIOPL 0x2202 := by decide

theorem witness_FlagsInstructionsNeedIopl3InV86 :
    ({ vm with eflags := 0x00022202 } : State).mode = .v86 ∧ flagIOPL 0x00022202 ≠ 3 := by decide

/-- For every statement in the terms of `CanPush`. -/
theorem witness_CanPush :
    CanPush .w32 m32 [0xFFC, 0xFFD, 0xFFE, 0xFFF] ∧ CanPush .w16 m32 [0xFFE, 0xFFF] ∧
    CanPush .w16 (withEsp m16 0) [0xFFFE, 0xFFFF] := by
  refine ⟨⟨by decide, rfl⟩, ⟨by decide, rfl⟩, ⟨by decide, rfl⟩⟩

/-- For every statement in the terms of `PushRaises`. -/
theorem witness_PushRaises :
    PushRaises .w32 (withEsp m16 3) (.ss none) ∧ PushRaises .w16 (withEsp vm 1) (.ss (some 0)) ∧
    PushRaises .w16 ((withEsp m16 0x2000).setSeg .ss (flat 0x0FFF false)) (.ss none) :=
  ⟨⟨by decide, rfl⟩, ⟨by decide, rfl⟩, ⟨by decide, rfl⟩⟩

theorem witness_PushMemory :
    memRead .integer .ds 0x66 4 (withEsp m16 3) = .ok 0 ∧
    memRead .integer (MemOp.segment ⟨none, .sib .esp 0 .esp .none⟩)
      (effectiveAddr m32 (.sib .esp 0 .esp .none)) 4 m32 = .ok 0 ∧
    memRead .integer .ds (effectiveAddr m16 (.abs16 0xFFFF)) 2 m16 = .error (.raise (.gp none)) := ⟨rfl, rfl, rfl⟩

theorem witness_PushFlagsImage :
    ¬(m32.mode = .v86 ∧ flagIOPL m32.eflags ≠ 3) ∧ ¬(vm.mode = .v86 ∧ flagIOPL vm.eflags ≠ 3) ∧
    (let s : State := { vm with eflags := 0x00022202 }; s.mode = .v86 ∧ flagIOPL s.eflags ≠ 3) := by decide

/-- PUSHA on a 16-bit stack whose pointer wraps after the first item, and PUSHAD. -/
theorem witness_PushAllNetEffect :
    (let s := withEsp m16 2
     s.mode = .real ∧ s.sp.toNat ∉ [1, 3, 5, 7, 9, 11, 13, 15] ∧ (∀ k, k < 8 → s.spMinus (2 * k) ≠ 1) ∧
     (∀ k, k < 8 → okOf (access .integer true .ss (s.spMinus (2 * (k + 1))) 2 s) =
       some [(65536 - 2 * k) % 65536, (65536 - 2 * k) % 65536 + 1])) ∧
    (∀ k, k < 8 → m32.spMinus (4 * k) ≠ 1) ∧
    (∀ k, k < 8 → okOf (access .integer true .ss (m32.spMinus (4 * (k + 1))) 4 m32) =
       some ((List.range 4).map (4092 - 4 * k + ·))) ∧
    ((List.range 8).flatMap fun k => (List.range 4).map (4092 - 4 * k + ·)).Nodup := by decide

/-- Real-address mode with a stack segment whose limit is 0x0FFF. -/
def lowStack : State := m16.setSeg .ss (flat 0x0FFF false)

/-- PUSHAD whose last push meets a stack pointer of 1, and PUSHAD and PUSHA whose second store passes the limit. -/
theorem witness_PushAllNetEffect_stops :
    (let s := withEsp m16 29
     s.mode = .real ∧ s.sp.toNat ∉ [1, 3, 5, 7, 9, 11, 13, 15] ∧ s.spMinus (4 * 7) = 1 ∧
     (∀ j, j < 7 → s.spMinus (4 * j) ≠ 1 ∧ (okOf (access .integer true .ss (s.spMinus (4 * (j + 1))) 4 s)).isSome = true) ∧
     seen (·.shutdown) (exec .pushad s) = some true) ∧
    (let s := withEsp m16 6
     s.sp.toNat ∉ [1, 3, 5, 7, 9, 11, 13, 15] ∧ s.spMinus (4 * 0) ≠ 1 ∧ s.spMinus (4 * 1) ≠ 1 ∧
     (okOf (access .integer true .ss (s.spMinus (4 * 1)) 4 s)).isSome = true ∧
     errOf (access .integer true .ss (s.spMinus (4 * 2)) 4 s) = some (.raise (.ss none)) ∧
     exnOf (exec .pushad s) = some (.ss none)) ∧
    (let s := withEsp lowStack 2
     s.mode = .real ∧ s.spMinus (2 * 0) ≠ 1 ∧ s.spMinus (2 * 1) ≠ 1 ∧
     (okOf (access .integer true .ss (s.spMinus (2 * 1)) 2 s)).isSome = true ∧
     errOf (access .integer true .ss (s.spMinus (2 * 2)) 2 s) = some (.raise (.ss none)) ∧
     exnOf (exec .pusha s) = some (.ss none)) := by decide

/-- A push that raises after one that passed, and the first push of all through a null SS. -/
theorem witness_PushAllNetEffect_raises :
    (let s := withEsp lowStack 2
     ∃ t, pushList .w16 ((pushAllOrder.map (s.regSz .w16)).take 1) s = .ok t ∧ PushRaises .w16 t (.ss none)) ∧
    (let s := pm.setSeg .ss { flat 2 true with hid := { (flat 2 true).hid with null := true } }
     s.mode = .prot ∧ pushList .w32 ((pushAllOrder.map (s.regSz .w32)).take 0) s = .ok s ∧
     PushRaises .w32 s (.gp (some 0))) :=
  ⟨⟨_, rfl, by decide, rfl⟩, by decide, rfl, by decide, rfl⟩

theorem witness_PushAllStartTest :
    (withEsp m16 5).sp.toNat ∈ [1, 3, 5] ∧ (withEsp m16 7).sp.toNat ∈ [7, 9, 11, 13, 15] ∧
    (withEsp vm 15).sp.toNat ∈ [1, 3, 5, 7, 9, 11, 13, 15] ∧ (withEsp m16 17).sp.toNat ∉ [1, 3, 5, 7, 9, 11, 13, 15] ∧
    (withEsp m16 0).sp.toNat ∉ [1, 3, 5, 7, 9, 11, 13, 15] := by decide

theorem witness_ShutdownForLackOfStack :
    (withEsp m16 1).mode = .real ∧ (withEsp m16 1).sp = 1 ∧
    memRead .integer .ds 0x66 4 (withEsp m16 1) = .ok 0 ∧ memRead .integer .ds 0x66 2 (withEsp m16 1) = .ok 0 ∧
    (seen (·.shutdown) (exec .pushf (withEsp m16 1))) = some true ∧ downState.shutdown = true :=
  ⟨by decide, by decide, rfl, rfl, by decide, rfl⟩

theorem witness_PopUndoesPush :
    m16.mode = .real ∧ m16.shutdown = false ∧ seen (·.shutdown) (exec (.pushR32 .esp) m16) = some false ∧
    seen (·.shutdown) (exec (.pushR16 .esp) (withEsp m16 0)) = some false := by decide

end Sys2Proof.Tests
end

section
/-! Packing (41_pack.md R140 to R142): the saturating conversions as clamped integers, the elements of the three results,
and how a row that is the MMX template completes. -/

namespace Sys2Proof.Machine

/-! ## The saturating conversions (00_scope.md R12) -/

/-- The signed value of `SatS8` is its argument clamped to a signed byte. -/
@[simp] theorem toInt_satS8 (i : Int) : (satS8 i).toInt = max (-128) (min 127 i) := by
  unfold satS8
  split_ifs with hhi hlo
  · rw [show (0x7F : Byte).toInt = 127 from rfl]; omega
  · rw [show (0x80 : Byte).toInt = -128 from rfl]; omega
  · rw [BitVec.toInt_ofInt_eq_self (by omega) (by omega) (by omega)]; omega

/-- The signed value of `SatS16` is its argument clamped to a signed word. -/
@[simp] theorem toInt_satS16 (i : Int) : (satS16 i).toInt = max (-32768) (min 32767 i) := by
  unfold satS16
  split_ifs with hhi hlo
  · rw [show (0x7FFF : Word).toInt = 32767 from rfl]; omega
  · rw [show (0x8000 : Word).toInt = -32768 from rfl]; omega
  · rw [BitVec.toInt_ofInt_eq_self (by omega) (by omega) (by omega)]; omega

/-- The unsigned value of `SatU8` is its argument clamped to an unsigned byte. -/
@[simp] theorem toNat_satU8 (i : Int) : ((satU8 i).toNat : Int) = max 0 (min 255 i) := by
  unfold satU8
  split_ifs with hhi hlo
  · rw [show (0xFF : Byte).toNat = 255 from rfl]; omega
  · rw [show (0x00 : Byte).toNat = 0 from rfl]; omega
  · rw [BitVec.toNat_ofInt]; omega

/-! ## The elements of a packed quadword -/

section
variable (d v : Qword) {k : Nat}

/-- R140: a low byte of PACKSSWB comes from the destination's word of the same number. -/
theorem byteLane_packsswb_low (hk : k < 4) : byteLane (packsswb d v) k = satS8 (wordLane d k).toInt := by
  rw [packsswb, byteLane_ofBytes _ (by omega), if_pos hk]

/-- R140: a high byte of PACKSSWB comes from the source's word. -/
theorem byteLane_packsswb_high (hk : k < 4) : byteLane (packsswb d v) (k + 4) = satS8 (wordLane v k).toInt := by
  rw [packsswb, byteLane_ofBytes _ (by omega), if_neg (by omega), Nat.add_sub_cancel]

/-- R141: a low word of PACKSSDW comes from the destination's doubleword of the same number. -/
theorem wordLane_packssdw_low (hk : k < 2) : wordLane (packssdw d v) k = satS16 (dwordLane d k).toInt := by
  rw [packssdw, wordLane_ofWords _ (by omega), if_pos hk]

/-- R141: a high word of PACKSSDW comes from the source's doubleword. -/
theorem wordLane_packssdw_high (hk : k < 2) : wordLane (packssdw d v) (k + 2) = satS16 (dwordLane v k).toInt := by
  rw [packssdw, wordLane_ofWords _ (by omega), if_neg (by omega), Nat.add_sub_cancel]

/-- R142: a low byte of PACKUSWB comes from the destination's word of the same number. -/
theorem byteLane_packuswb_low (hk : k < 4) : byteLane (packuswb d v) k = satU8 (wordLane d k).toInt := by
  rw [packuswb, byteLane_ofBytes _ (by omega), if_pos hk]

/-- R142: a high byte of PACKUSWB comes from the source's word. -/
theorem byteLane_packuswb_high (hk : k < 4) : byteLane (packuswb d v) (k + 4) = satU8 (wordLane v k).toInt := by
  rw [packuswb, byteLane_ofBytes _ (by omega), if_neg (by omega), Nat.add_sub_cancel]

end

/-! ## Rows that are the MMX template -/

/-- A row whose meaning is the MMX template with the result `f` completes with that result, so it has every property
that `f` has (40_mmx_common.md R124). -/
theorem mmxResult_of_mmxRun {mk : MReg → MmSrc → Instr} {n : Nat} {f : Qword → Qword → Qword}
    {P : Qword → Qword → Qword → Prop} (hrun : ∀ dst src s, exec (mk dst src) s = mmxRun (mk dst src) dst src n f s)
    (hf : ∀ d v, P d v (f d v)) : MmxResult mk n P := by
  intro dst src s v havail hoperand
  refine ⟨f (s.getMm dst) v, ?_, hf _ _⟩
  rw [hrun]
  exact mmxRun_next.2 ⟨v, havail, hoperand, rfl⟩

/-- The meaning of PACKSSWB is the template with `packsswb`. -/
theorem exec_packsswb (dst : MReg) (src : MmSrc) (s : State) :
    exec (.packsswb dst src) s = mmxRun (.packsswb dst src) dst src 8 packsswb s := rfl

/-- The meaning of PACKSSDW is the template with `packssdw`. -/
theorem exec_packssdw (dst : MReg) (src : MmSrc) (s : State) :
    exec (.packssdw dst src) s = mmxRun (.packssdw dst src) dst src 8 packssdw s := rfl

/-- The meaning of PACKUSWB is the template with `packuswb`. -/
theorem exec_packuswb (dst : MReg) (src : MmSrc) (s : State) :
    exec (.packuswb dst src) s = mmxRun (.packuswb dst src) dst src 8 packuswb s := rfl

/-- Settles O20: each row is the template, each element of its result is a saturated element of the old destination
or of the source, and saturating is clamping. -/
theorem packSaturatesEachElement : Obligations.PackSaturatesEachElement := by
  refine ⟨⟨rfl, mmxResult_of_mmxRun exec_packsswb fun d v k hk => ?_⟩,
    ⟨rfl, mmxResult_of_mmxRun exec_packssdw fun d v k hk => ?_⟩,
    ⟨rfl, mmxResult_of_mmxRun exec_packuswb fun d v k hk => ?_⟩⟩
  · rw [byteLane_packsswb_low d v hk, byteLane_packsswb_high d v hk]
    exact ⟨toInt_satS8 _, toInt_satS8 _⟩
  · rw [wordLane_packssdw_low d v hk, wordLane_packssdw_high d v hk]
    exact ⟨toInt_satS16 _, toInt_satS16 _⟩
  · rw [byteLane_packuswb_low d v hk, byteLane_packuswb_high d v hk]
    exact ⟨toNat_satU8 _, toNat_satU8 _⟩

end Sys2Proof.Machine
end

section
/-! Addition (42_padd.md R150 to R156): the elements of an element-wise result, unsigned saturation, the elements of the
seven sums, and the rows that compute them. -/

namespace Sys2Proof.Machine

section
variable (d v : Qword) {k : Nat}

/-! ## The elements of an element-wise result (40_mmx_common.md R127) -/

/-- A byte of a byte-wise result depends on the two bytes of the same number alone. -/
theorem byteLane_mapBytes (f : Byte → Byte → Byte) (hk : k < 8) :
    byteLane (mapBytes f d v) k = f (byteLane d k) (byteLane v k) := by
  rw [mapBytes, byteLane_ofBytes _ hk]

/-- A word of a word-wise result depends on the two words of the same number alone. -/
theorem wordLane_mapWords (f : Word → Word → Word) (hk : k < 4) :
    wordLane (mapWords f d v) k = f (wordLane d k) (wordLane v k) := by
  rw [mapWords, wordLane_ofWords _ hk]

/-- A doubleword of a doubleword-wise result depends on the two doublewords of the same number alone. -/
theorem dwordLane_mapDwords (f : Dword → Dword → Dword) (hk : k < 2) :
    dwordLane (mapDwords f d v) k = f (dwordLane d k) (dwordLane v k) := by
  rw [mapDwords, dwordLane_ofDwords _ hk]

/-! ## Unsigned saturation (00_scope.md R12) -/

/-- The unsigned value of `SatU16` is its argument clamped to an unsigned word. -/
@[simp] theorem toNat_satU16 (i : Int) : ((satU16 i).toNat : Int) = max 0 (min 65535 i) := by
  unfold satU16
  split_ifs with hhi hlo
  · rw [show (0xFFFF : Word).toNat = 65535 from rfl]; omega
  · rw [show (0x0000 : Word).toNat = 0 from rfl]; omega
  · rw [BitVec.toNat_ofInt]; omega

/-- A sum of unsigned values is never negative, so `SatU8` clamps it from above alone. -/
theorem toNat_satU8_add (a b : Nat) : (satU8 ((a : Int) + b)).toNat = min 255 (a + b) := by
  have hclamp := toNat_satU8 ((a : Int) + b)
  omega

/-- A sum of unsigned values is never negative, so `SatU16` clamps it from above alone. -/
theorem toNat_satU16_add (a b : Nat) : (satU16 ((a : Int) + b)).toNat = min 65535 (a + b) := by
  have hclamp := toNat_satU16 ((a : Int) + b)
  omega

/-! ## The elements of the sums -/

/-- R150: a byte of PADDB is the sum of the two bytes modulo `2 ^ 8`. -/
theorem byteLane_paddb (hk : k < 8) :
    (byteLane (paddb d v) k).toNat = ((byteLane d k).toNat + (byteLane v k).toNat) % 2 ^ 8 := by
  rw [paddb, byteLane_mapBytes d v _ hk, BitVec.toNat_ofNat]

/-- R151: a word of PADDW is the sum of the two words modulo `2 ^ 16`. -/
theorem wordLane_paddw (hk : k < 4) :
    (wordLane (paddw d v) k).toNat = ((wordLane d k).toNat + (wordLane v k).toNat) % 2 ^ 16 := by
  rw [paddw, wordLane_mapWords d v _ hk, BitVec.toNat_ofNat]

/-- R152: a doubleword of PADDD is the sum of the two doublewords modulo `2 ^ 32`. -/
theorem dwordLane_paddd (hk : k < 2) :
    (dwordLane (paddd d v) k).toNat = ((dwordLane d k).toNat + (dwordLane v k).toNat) % 2 ^ 32 := by
  rw [paddd, dwordLane_mapDwords d v _ hk, BitVec.toNat_ofNat]

/-- R153: a byte of PADDSB is the exact signed sum of the two bytes, clamped to a signed byte. -/
theorem byteLane_paddsb (hk : k < 8) :
    (byteLane (paddsb d v) k).toInt = max (-128) (min 127 ((byteLane d k).toInt + (byteLane v k).toInt)) := by
  rw [paddsb, byteLane_mapBytes d v _ hk, toInt_satS8]

/-- R154: a word of PADDSW is the exact signed sum of the two words, clamped to a signed word. -/
theorem wordLane_paddsw (hk : k < 4) :
    (wordLane (paddsw d v) k).toInt = max (-32768) (min 32767 ((wordLane d k).toInt + (wordLane v k).toInt)) := by
  rw [paddsw, wordLane_mapWords d v _ hk, toInt_satS16]

/-- R155: a byte of PADDUSB is the exact unsigned sum of the two bytes, cut off at 255. -/
theorem byteLane_paddusb (hk : k < 8) :
    (byteLane (paddusb d v) k).toNat = min 255 ((byteLane d k).toNat + (byteLane v k).toNat) := by
  rw [paddusb, byteLane_mapBytes d v _ hk, toNat_satU8_add]

/-- R156: a word of PADDUSW is the exact unsigned sum of the two words, cut off at 65535. -/
theorem wordLane_paddusw (hk : k < 4) :
    (wordLane (paddusw d v) k).toNat = min 65535 ((wordLane d k).toNat + (wordLane v k).toNat) := by
  rw [paddusw, wordLane_mapWords d v _ hk, toNat_satU16_add]

end

/-! ## The rows are the MMX template with these sums (40_mmx_common.md R124) -/

section
variable (dst : MReg) (src : MmSrc) (s : State)

theorem exec_paddb : exec (.paddb dst src) s = mmxRun (.paddb dst src) dst src 8 paddb s := rfl

theorem exec_paddw : exec (.paddw dst src) s = mmxRun (.paddw dst src) dst src 8 paddw s := rfl

theorem exec_paddd : exec (.paddd dst src) s = mmxRun (.paddd dst src) dst src 8 paddd s := rfl

theorem exec_paddsb : exec (.paddsb dst src) s = mmxRun (.paddsb dst src) dst src 8 paddsb s := rfl

theorem exec_paddsw : exec (.paddsw dst src) s = mmxRun (.paddsw dst src) dst src 8 paddsw s := rfl

theorem exec_paddusb : exec (.paddusb dst src) s = mmxRun (.paddusb dst src) dst src 8 paddusb s := rfl

theorem exec_paddusw : exec (.paddusw dst src) s = mmxRun (.paddusw dst src) dst src 8 paddusw s := rfl

end

/-- Settles O21: each row is the template, and each element of its result is the sum of the two elements of the same
number, truncated to the element. -/
theorem paddWrapsEachElement : Obligations.PaddWrapsEachElement :=
  ⟨⟨rfl, mmxResult_of_mmxRun exec_paddb fun d v _ hk => byteLane_paddb d v hk⟩,
    ⟨rfl, mmxResult_of_mmxRun exec_paddw fun d v _ hk => wordLane_paddw d v hk⟩,
    ⟨rfl, mmxResult_of_mmxRun exec_paddd fun d v _ hk => dwordLane_paddd d v hk⟩⟩

/-- Settles O22: each row is the template, and each element of its result is the exact sum of the two elements of the
same number, clamped to the range of the element. -/
theorem paddSaturatesEachElement : Obligations.PaddSaturatesEachElement :=
  ⟨⟨rfl, mmxResult_of_mmxRun exec_paddsb fun d v _ hk => byteLane_paddsb d v hk⟩,
    ⟨rfl, mmxResult_of_mmxRun exec_paddsw fun d v _ hk => wordLane_paddsw d v hk⟩,
    ⟨rfl, mmxResult_of_mmxRun exec_paddusb fun d v _ hk => byteLane_paddusb d v hk⟩,
    ⟨rfl, mmxResult_of_mmxRun exec_paddusw fun d v _ hk => wordLane_paddusw d v hk⟩⟩

end Sys2Proof.Machine
end

section
/-! The bitwise instructions (43_pand_pcmp.md R170, R171, 46_por_pshift.md R250, 49_push_pxor.md R350) and the comparisons
(43_pand_pcmp.md R172 to R177): the bits and the elements of the ten results, and the rows that compute them. -/

namespace Sys2Proof.Machine

section
variable (d v : Qword) {k : Nat}

/-! ## The bits of the bitwise results -/

/-- R170: a bit of PAND is set when both bits are. -/
theorem getLsbD_pand : (pand d v).getLsbD k = (d.getLsbD k && v.getLsbD k) := by
  rw [pand, BitVec.getLsbD_and]

/-- R171: a bit of PANDN is set when the destination's is clear and the source's is set. Only the destination is
inverted, and the inversion stays within the 64 bits. -/
theorem getLsbD_pandn (hk : k < 64) : (pandn d v).getLsbD k = (!d.getLsbD k && v.getLsbD k) := by
  rw [pandn, BitVec.getLsbD_and, BitVec.getLsbD_not, decide_eq_true hk, Bool.true_and]

/-- R250: a bit of POR is set when one of the two bits is. -/
theorem getLsbD_por : (por d v).getLsbD k = (d.getLsbD k || v.getLsbD k) := by
  rw [por, BitVec.getLsbD_or]

/-- R350: a bit of PXOR is set when the two bits differ. -/
theorem getLsbD_pxor : (pxor d v).getLsbD k = (d.getLsbD k != v.getLsbD k) := by
  rw [pxor, BitVec.getLsbD_xor, Bool.bne_eq_xor]

/-! ## The elements of the comparisons

The model writes a mask as `BitVec.allOnes w`; the lemmas state it as the number of the spec, which it evaluates to. -/

/-- R172: a byte of PCMPEQB is all ones where the two bytes are equal, else all zeros. -/
theorem byteLane_pcmpeqb (hk : k < 8) :
    byteLane (pcmpeqb d v) k = if byteLane d k = byteLane v k then 0xFF else 0x00 :=
  byteLane_mapBytes d v _ hk

/-- R173: a word of PCMPEQW is all ones where the two words are equal, else all zeros. -/
theorem wordLane_pcmpeqw (hk : k < 4) :
    wordLane (pcmpeqw d v) k = if wordLane d k = wordLane v k then 0xFFFF else 0x0000 :=
  wordLane_mapWords d v _ hk

/-- R174: a doubleword of PCMPEQD is all ones where the two doublewords are equal, else all zeros. -/
theorem dwordLane_pcmpeqd (hk : k < 2) :
    dwordLane (pcmpeqd d v) k = if dwordLane d k = dwordLane v k then 0xFFFFFFFF else 0x00000000 :=
  dwordLane_mapDwords d v _ hk

/-- R175: a byte of PCMPGTB is all ones where the destination's byte is the greater as a signed number. -/
theorem byteLane_pcmpgtb (hk : k < 8) :
    byteLane (pcmpgtb d v) k = if (byteLane d k).toInt > (byteLane v k).toInt then 0xFF else 0x00 :=
  byteLane_mapBytes d v _ hk

/-- R176: a word of PCMPGTW is all ones where the destination's word is the greater as a signed number. -/
theorem wordLane_pcmpgtw (hk : k < 4) :
    wordLane (pcmpgtw d v) k = if (wordLane d k).toInt > (wordLane v k).toInt then 0xFFFF else 0x0000 :=
  wordLane_mapWords d v _ hk

/-- R177: a doubleword of PCMPGTD is all ones where the destination's doubleword is the greater as a signed number. -/
theorem dwordLane_pcmpgtd (hk : k < 2) :
    dwordLane (pcmpgtd d v) k =
      if (dwordLane d k).toInt > (dwordLane v k).toInt then 0xFFFFFFFF else 0x00000000 :=
  dwordLane_mapDwords d v _ hk

end

/-! ## The rows are the MMX template with these results (40_mmx_common.md R124) -/

section
variable (dst : MReg) (src : MmSrc) (s : State)

theorem exec_pand : exec (.pand dst src) s = mmxRun (.pand dst src) dst src 8 pand s := rfl

theorem exec_pandn : exec (.pandn dst src) s = mmxRun (.pandn dst src) dst src 8 pandn s := rfl

theorem exec_por : exec (.por dst src) s = mmxRun (.por dst src) dst src 8 por s := rfl

theorem exec_pxor : exec (.pxor dst src) s = mmxRun (.pxor dst src) dst src 8 pxor s := rfl

theorem exec_pcmpeqb : exec (.pcmpeqb dst src) s = mmxRun (.pcmpeqb dst src) dst src 8 pcmpeqb s := rfl

theorem exec_pcmpeqw : exec (.pcmpeqw dst src) s = mmxRun (.pcmpeqw dst src) dst src 8 pcmpeqw s := rfl

theorem exec_pcmpeqd : exec (.pcmpeqd dst src) s = mmxRun (.pcmpeqd dst src) dst src 8 pcmpeqd s := rfl

theorem exec_pcmpgtb : exec (.pcmpgtb dst src) s = mmxRun (.pcmpgtb dst src) dst src 8 pcmpgtb s := rfl

theorem exec_pcmpgtw : exec (.pcmpgtw dst src) s = mmxRun (.pcmpgtw dst src) dst src 8 pcmpgtw s := rfl

theorem exec_pcmpgtd : exec (.pcmpgtd dst src) s = mmxRun (.pcmpgtd dst src) dst src 8 pcmpgtd s := rfl

end

/-! ## The availability checks (40_mmx_common.md R121) -/

/-- The MMX template completes in no state that fails an availability check, whatever its operands and its result. -/
theorem mmxRun_ne_next {i : Instr} {dst : MReg} {src : MmSrc} {n : Nat} {f : Qword → Qword → Qword} {s t : State}
    (hunavail : mmxAvailable s = false) : mmxRun i dst src n f s ≠ .next t := by
  intro hnext
  obtain ⟨_, havail, -, -⟩ := mmxRun_next.1 hnext
  exact Bool.false_ne_true (hunavail.symm.trans havail)

/-- Settles O25: each row is the template and its result is the bitwise operation; the template makes the availability
checks before its operands matter, so the same-register forms make them too. -/
theorem bitwiseInstructions : Obligations.BitwiseInstructions := by
  refine ⟨⟨rfl, mmxResult_of_mmxRun exec_pand fun d v _ _ => getLsbD_pand d v⟩,
    ⟨rfl, mmxResult_of_mmxRun exec_pandn fun d v _ hk => getLsbD_pandn d v hk⟩,
    ⟨rfl, mmxResult_of_mmxRun exec_por fun d v _ _ => getLsbD_por d v⟩,
    ⟨rfl, mmxResult_of_mmxRun exec_pxor fun d v _ _ => getLsbD_pxor d v⟩,
    fun m s t hunavail => ⟨?_, ?_⟩⟩
  · rw [exec_pand]
    exact mmxRun_ne_next hunavail
  · rw [exec_pxor]
    exact mmxRun_ne_next hunavail

/-- Settles O26: each row is the template, and each element of its result is the mask of the comparison of the two
elements of the same number. -/
theorem compareMasks : Obligations.CompareMasks :=
  ⟨⟨rfl, mmxResult_of_mmxRun exec_pcmpeqb fun d v _ hk => byteLane_pcmpeqb d v hk⟩,
    ⟨rfl, mmxResult_of_mmxRun exec_pcmpeqw fun d v _ hk => wordLane_pcmpeqw d v hk⟩,
    ⟨rfl, mmxResult_of_mmxRun exec_pcmpeqd fun d v _ hk => dwordLane_pcmpeqd d v hk⟩,
    ⟨rfl, mmxResult_of_mmxRun exec_pcmpgtb fun d v _ hk => byteLane_pcmpgtb d v hk⟩,
    ⟨rfl, mmxResult_of_mmxRun exec_pcmpgtw fun d v _ hk => wordLane_pcmpgtw d v hk⟩,
    ⟨rfl, mmxResult_of_mmxRun exec_pcmpgtd fun d v _ hk => dwordLane_pcmpgtd d v hk⟩⟩

end Sys2Proof.Machine
end

section
/-! Multiplication (44_pmul.md R190 to R192): truncating an exact integer, the high word of a signed doubleword, the range
of a signed product, the elements of the three results, and the rows that compute them. -/

namespace Sys2Proof.Machine

/-! ## Parts of an exact product -/

/-- Truncating an exact integer to `w` bits is reduction modulo `2 ^ w`. -/
theorem natCast_toNat_ofInt (w : Nat) (i : Int) : ((BitVec.ofInt w i).toNat : Int) = i % 2 ^ w := by
  have hpow : ((2 ^ w : Nat) : Int) ≠ 0 := Int.natCast_ne_zero.2 (Nat.two_pow_pos w).ne'
  rw [BitVec.toNat_ofInt, Int.toNat_of_nonneg (Int.emod_nonneg _ hpow), Int.natCast_pow, Int.cast_ofNat_Int]

/-- The high word of a signed doubleword is its value divided by `2 ^ 16`, rounded down: the two signs agree. -/
theorem toInt_highWord (x : Dword) : (x.extractLsb' 16 16).toInt = x.toInt / 2 ^ 16 := by
  have hhigh : (x.extractLsb' 16 16).toNat = x.toNat / 2 ^ 16 % 2 ^ 16 := by
    rw [BitVec.extractLsb'_toNat, Nat.shiftRight_eq_div_pow]
  have hx := x.isLt
  rw [BitVec.toInt_eq_toNat_cond, BitVec.toInt_eq_toNat_cond, hhigh]
  split_ifs <;> omega

/-- The product of two signed words fits a signed doubleword, so the intermediate result of R191 is exact. -/
theorem toInt_ofInt_wordProduct (a b : Word) : (BitVec.ofInt 32 (a.toInt * b.toInt)).toInt = a.toInt * b.toInt := by
  have hlow : -2 ^ 30 ≤ a.toInt * b.toInt := BitVec.le_toInt_mul_toInt
  have hhigh : a.toInt * b.toInt ≤ 2 ^ 30 := BitVec.toInt_mul_toInt_le
  exact BitVec.toInt_ofInt_eq_self (by decide) (by omega) (by omega)

section
variable (d v : Qword) {k : Nat}

/-! ## The elements of the products -/

/-- R190: a doubleword of PMADDWD is the sum of the two signed products of its words, modulo `2 ^ 32`. -/
theorem dwordLane_pmaddwd (hk : k < 2) :
    ((dwordLane (pmaddwd d v) k).toNat : Int) =
      ((wordLane d (2 * k)).toInt * (wordLane v (2 * k)).toInt +
        (wordLane d (2 * k + 1)).toInt * (wordLane v (2 * k + 1)).toInt) % 2 ^ 32 := by
  rw [pmaddwd, dwordLane_ofDwords _ hk, natCast_toNat_ofInt]

/-- R191: a word of PMULHW is the signed product of the two words divided by `2 ^ 16`, rounded down. -/
theorem wordLane_pmulhw (hk : k < 4) :
    (wordLane (pmulhw d v) k).toInt = (wordLane d k).toInt * (wordLane v k).toInt / 2 ^ 16 := by
  rw [pmulhw, wordLane_mapWords d v _ hk, toInt_highWord, toInt_ofInt_wordProduct]

/-- R192: a word of PMULLW is the signed product of the two words modulo `2 ^ 16`. -/
theorem wordLane_pmullw (hk : k < 4) :
    ((wordLane (pmullw d v) k).toNat : Int) = ((wordLane d k).toInt * (wordLane v k).toInt) % 2 ^ 16 := by
  rw [pmullw, wordLane_mapWords d v _ hk, natCast_toNat_ofInt]

end

/-! ## The rows are the MMX template with these products (40_mmx_common.md R124) -/

section
variable (dst : MReg) (src : MmSrc) (s : State)

theorem exec_pmaddwd : exec (.pmaddwd dst src) s = mmxRun (.pmaddwd dst src) dst src 8 pmaddwd s := rfl

theorem exec_pmulhw : exec (.pmulhw dst src) s = mmxRun (.pmulhw dst src) dst src 8 pmulhw s := rfl

theorem exec_pmullw : exec (.pmullw dst src) s = mmxRun (.pmullw dst src) dst src 8 pmullw s := rfl

end

/-- Settles O27: each row is the template; the sum of two products and the low word are truncations of exact integers,
and the high word is the floor of an exact product. -/
theorem multiplyResults : Obligations.MultiplyResults :=
  ⟨⟨rfl, mmxResult_of_mmxRun exec_pmaddwd fun d v _ hk => dwordLane_pmaddwd d v hk⟩,
    ⟨rfl, mmxResult_of_mmxRun exec_pmulhw fun d v _ hk => wordLane_pmulhw d v hk⟩,
    ⟨rfl, mmxResult_of_mmxRun exec_pmullw fun d v _ hk => wordLane_pmullw d v hk⟩⟩

end Sys2Proof.Machine
end

section
/-! Segment loads in protected mode (45_pop.md R212 to R214): when a selector is null, what each answer of `DescLookup`
makes of a load, what a load leaves as it was, and that nothing is reached through a null segment register. -/

namespace Sys2Proof.Machine

/-! ## Null selectors (10_state.md R36) -/

/-- The null selectors are the four values 0 to 3. -/
theorem isNullSel_iff {sel : Word} : isNullSel sel = true ↔ sel.toNat ≤ 3 := by
  have hidx : (sel.extractLsb' 2 14).toNat = sel.toNat / 2 ^ 2 % 2 ^ 14 := by
    rw [BitVec.extractLsb'_toNat, Nat.shiftRight_eq_div_pow]
  have hlt := sel.isLt
  rw [isNullSel, decide_eq_true_iff, ← BitVec.toNat_inj, hidx, show (0 : BitVec 14).toNat = 0 from rfl]
  omega

/-- In protected mode an access through a null segment register stops at the first check, whatever is accessed. -/
theorem access_null {who : Requester} {write : Bool} {S : SReg} {off : Dword} {n : Nat} {s : State}
    (hmode : s.mode = .prot) (hnull : (s.seg S).hid.null = true) :
    access who write S off n s = .error (.raise (.gp (some 0))) := by
  have hcheck : segmentCheck who write S off n s = .error (.raise (.gp (some 0))) := by
    simp only [segmentCheck, hmode, hnull, if_true]
  exact Res.bind_error.2 (.inl hcheck)

/-! ## What a segment load changes -/

/-- Writing a segment register changes that register alone. -/
theorem State.setSeg_frame (s : State) (S : SReg) (x : Segment) :
    s.setSeg S x = { s with segs := (s.setSeg S x).segs } ∧ (s.setSeg S x).seg S = x ∧
      ∀ X, X ≠ S → (s.setSeg S x).seg X = s.seg X :=
  ⟨rfl, by rw [State.seg_setSeg, if_pos rfl], fun X hX => by rw [State.seg_setSeg, if_neg hX]⟩

section
variable {dd : Config.DescLookup} {d : Descriptor} {S : SReg} {sel : Word} {s : State}

/-! ## Loads of SS (R212), by the answer of `DescLookup` -/

/-- SS takes no null selector, and no table is consulted. -/
theorem loadStackSeg_null (hnull : isNullSel sel = true) :
    loadStackSeg dd sel s = .error (.raise (.gp (some 0))) := by
  simp [loadStackSeg, hnull]

theorem loadStackSeg_outsideTable (hsel : isNullSel sel = false) :
    loadStackSeg .outsideTable sel s = .error (.raise (.gp (some (selCode sel)))) := by
  simp [loadStackSeg, hsel]

theorem loadStackSeg_notCodeOrData (hsel : isNullSel sel = false) :
    loadStackSeg .notCodeOrData sel s = .error (.raise (.gp (some (selCode sel)))) := by
  simp [loadStackSeg, hsel]

/-- A descriptor is first held against the privilege level and the type, then against the presence. -/
theorem loadStackSeg_found (hsel : isNullSel sel = false) :
    loadStackSeg (.found d) sel s =
      if selRPL sel ≠ s.cpl ∨ d.code = true ∨ d.writable = false ∨ d.dpl ≠ s.cpl then
        .error (.raise (.gp (some (selCode sel))))
      else if d.present = false then .error (.raise (.ss (some (selCode sel))))
      else .ok (s.setSeg .ss (loaded sel d)) := by
  simp only [loadStackSeg, hsel, Bool.false_eq_true, if_false]

/-! ## Loads of the data segment registers (R213, R214), by the answer of `DescLookup` -/

/-- A null selector is loaded as it is, and no table is consulted. -/
theorem loadDataSeg_null (hnull : isNullSel sel = true) :
    loadDataSeg dd S sel s = .ok (s.setSeg S { sel := sel, hid := { (s.seg S).hid with null := true } }) := by
  simp [loadDataSeg, hnull]

theorem loadDataSeg_outsideTable (hsel : isNullSel sel = false) :
    loadDataSeg .outsideTable S sel s = .error (.raise (.gp (some (selCode sel)))) := by
  simp [loadDataSeg, hsel]

theorem loadDataSeg_notCodeOrData (hsel : isNullSel sel = false) :
    loadDataSeg .notCodeOrData S sel s = .error (.raise (.gp (some (selCode sel)))) := by
  simp [loadDataSeg, hsel]

/-- A descriptor is first held against the type and the privilege level, then against the presence. -/
theorem loadDataSeg_found (hsel : isNullSel sel = false) :
    loadDataSeg (.found d) S sel s =
      if (d.code = true ∧ d.readable = false) ∨
          ((d.code = false ∨ d.conforming = false) ∧ selRPL sel > d.dpl ∧ s.cpl > d.dpl) then
        .error (.raise (.gp (some (selCode sel))))
      else if d.present = false then .error (.raise (.np (selCode sel)))
      else .ok (s.setSeg S (loaded sel d)) := by
  simp only [loadDataSeg, hsel, Bool.false_eq_true, if_false]

end

/-! ## The statements -/

/-- Settles O45, by the answer of `DescLookup`: two answers are refused whatever the selector, and a descriptor is
refused exactly when it is bad, since it is the only one found. -/
theorem loadStackSegmentChecks : Obligations.LoadStackSegmentChecks := by
  intro dd sel s bad
  refine ⟨loadStackSeg_null, fun hsel hbad => ?_, fun hsel hgood d hd habsent => ?_,
    fun hsel hgood d hd hpresent => ?_⟩
  · cases dd with
    | outsideTable => exact loadStackSeg_outsideTable hsel
    | notCodeOrData => exact loadStackSeg_notCodeOrData hsel
    | found d =>
      rw [loadStackSeg_found hsel, if_pos (by simpa [bad] using hbad)]
      rfl
  · subst hd
    rw [loadStackSeg_found hsel, if_neg (by simpa [bad] using hgood), if_pos habsent]
    rfl
  · subst hd
    rw [loadStackSeg_found hsel, if_neg (by simpa [bad] using hgood), if_neg (by simp [hpresent])]
    exact ⟨_, rfl, State.setSeg_frame s .ss _⟩

/-- Settles O46, by the answer of `DescLookup`, as for SS: what is refused differs, and an absent segment raises #NP. -/
theorem loadDataSegmentChecks : Obligations.LoadDataSegmentChecks := by
  intro dd S sel s hsel bad
  refine ⟨fun hbad => ?_, fun hgood d hd habsent => ?_, fun hgood d hd hpresent => ?_⟩
  · cases dd with
    | outsideTable => exact loadDataSeg_outsideTable hsel
    | notCodeOrData => exact loadDataSeg_notCodeOrData hsel
    | found d =>
      rw [loadDataSeg_found hsel, if_pos (by simpa [bad] using hbad)]
      rfl
  · subst hd
    rw [loadDataSeg_found hsel, if_neg (by simpa [bad] using hgood), if_pos habsent]
    rfl
  · subst hd
    rw [loadDataSeg_found hsel, if_neg (by simpa [bad] using hgood), if_neg (by simp [hpresent])]
    exact ⟨_, rfl, State.setSeg_frame s S _⟩

/-- Settles O47: the load writes the register with its null mark set, and the first check of an access finds the mark. -/
theorem nullSelectorMayBeLoaded : Obligations.NullSelectorMayBeLoaded := by
  intro dd S sel s hsel
  obtain ⟨hframe, hseg, hother⟩ := State.setSeg_frame s S { sel := sel, hid := { (s.seg S).hid with null := true } }
  refine ⟨_, loadDataSeg_null (isNullSel_iff.2 hsel), hframe, ?_, ?_, hother, fun hmode who write off n => ?_⟩
  · rw [hseg]
  · rw [hseg]
  · exact access_null hmode (by rw [hseg])

end Sys2Proof.Machine
end

section
/-! The packed shifts (46_por_pshift.md R251 to R260): one element shifted left, right and right with its sign, for every
width; the elements of the eight results; how a row with an imm8 count completes; and the rows in their two forms. -/

namespace Sys2Proof.Machine

/-! ## Shifting one element -/

/-- A logical shift whose count is cut off above `m` gives 0 there, and below that the exact integer truncated to the
element. The count itself is not reduced (R252). -/
theorem toNat_cutOffShift (w m c n : Nat) :
    (if c > m then 0 else BitVec.ofNat w n).toNat = if c > m then 0 else n % 2 ^ w := by
  split_ifs
  · exact BitVec.toNat_zero
  · exact BitVec.toNat_ofNat n w

/-- Dividing an element leaves a number that the element holds, so a right shift truncates nothing. -/
theorem toNat_div_two_pow_mod {w : Nat} (x : BitVec w) (c : Nat) : x.toNat / 2 ^ c % 2 ^ w = x.toNat / 2 ^ c :=
  Nat.mod_eq_of_lt ((Nat.div_le_self _ _).trans_lt x.isLt)

/-- The floor of a signed element by a power of two is the library's arithmetic shift right. -/
theorem ofInt_toInt_div_two_pow {w : Nat} (x : BitVec w) (c : Nat) :
    BitVec.ofInt w (x.toInt / 2 ^ c) = x.sshiftRight c := by
  rw [BitVec.sshiftRight, Int.shiftRight_eq_div_pow, Int.natCast_pow, Int.cast_ofNat_Int]

/-- An arithmetic shift right is exact: the floor of a signed element is again in the element's range. -/
theorem toInt_ofInt_toInt_div_two_pow {w : Nat} (x : BitVec w) (c : Nat) :
    (BitVec.ofInt w (x.toInt / 2 ^ c)).toInt = x.toInt / 2 ^ c := by
  rw [ofInt_toInt_div_two_pow, BitVec.toInt_sshiftRight, Int.shiftRight_eq_div_pow, Int.natCast_pow,
    Int.cast_ofNat_Int]

/-- Shifted right by its width less 1, a signed element leaves its sign in every bit. -/
theorem ofInt_toInt_div_signBit {w : Nat} (x : BitVec w) :
    BitVec.ofInt w (x.toInt / 2 ^ (w - 1)) = if x.toInt < 0 then BitVec.allOnes w else 0#w := by
  have hlow : -2 ^ (w - 1) ≤ x.toInt := x.le_toInt
  have hhigh : x.toInt < 2 ^ (w - 1) := BitVec.toInt_lt
  split_ifs with hneg
  · rw [Int.ediv_eq_neg_one_of_neg_of_le hneg (by omega), BitVec.ofInt_neg, BitVec.ofInt_ofNat, BitVec.neg_one_eq_allOnes]
  · rw [Int.ediv_eq_zero_of_lt (by omega) hhigh, BitVec.ofInt_ofNat]

section
variable (d : Qword) (c : Nat) {k : Nat}

/-! ## The elements of the left shifts -/

/-- R253: a word of PSLLW is the word times `2 ^ c`, truncated; 0 when `c` is above 15. -/
theorem wordLane_psllw (hk : k < 4) :
    (wordLane (psllw d c) k).toNat = if c > 15 then 0 else (wordLane d k).toNat * 2 ^ c % 2 ^ 16 := by
  rw [psllw, wordLane_ofWords _ hk, toNat_cutOffShift]

/-- R254: a doubleword of PSLLD is the doubleword times `2 ^ c`, truncated; 0 when `c` is above 31. -/
theorem dwordLane_pslld (hk : k < 2) :
    (dwordLane (pslld d c) k).toNat = if c > 31 then 0 else (dwordLane d k).toNat * 2 ^ c % 2 ^ 32 := by
  rw [pslld, dwordLane_ofDwords _ hk, toNat_cutOffShift]

/-- R255: PSLLQ is the quadword times `2 ^ c`, truncated; 0 when `c` is above 63. -/
theorem toNat_psllq : (psllq d c).toNat = if c > 63 then 0 else d.toNat * 2 ^ c % 2 ^ 64 := by
  rw [psllq, toNat_cutOffShift]

/-! ## The elements of the arithmetic right shifts -/

/-- R256: a word of PSRAW is the floor of the signed word, the count cut off at 15. -/
theorem toInt_wordLane_psraw (hk : k < 4) :
    (wordLane (psraw d c) k).toInt = (wordLane d k).toInt / 2 ^ min c 15 := by
  rw [psraw, wordLane_ofWords _ hk, toInt_ofInt_toInt_div_two_pow]

/-- R256: a count above 15 leaves a word of PSRAW its sign alone. -/
theorem wordLane_psraw_of_gt (hk : k < 4) (hc : c > 15) :
    wordLane (psraw d c) k = if (wordLane d k).toInt < 0 then 0xFFFF else 0x0000 := by
  rw [psraw, wordLane_ofWords _ hk, Nat.min_eq_right hc.le]
  exact ofInt_toInt_div_signBit (wordLane d k)

/-- R257: a doubleword of PSRAD is the floor of the signed doubleword, the count cut off at 31. -/
theorem toInt_dwordLane_psrad (hk : k < 2) :
    (dwordLane (psrad d c) k).toInt = (dwordLane d k).toInt / 2 ^ min c 31 := by
  rw [psrad, dwordLane_ofDwords _ hk, toInt_ofInt_toInt_div_two_pow]

/-- R257: a count above 31 leaves a doubleword of PSRAD its sign alone. -/
theorem dwordLane_psrad_of_gt (hk : k < 2) (hc : c > 31) :
    dwordLane (psrad d c) k = if (dwordLane d k).toInt < 0 then 0xFFFFFFFF else 0x00000000 := by
  rw [psrad, dwordLane_ofDwords _ hk, Nat.min_eq_right hc.le]
  exact ofInt_toInt_div_signBit (dwordLane d k)

/-! ## The elements of the logical right shifts -/

/-- R258: a word of PSRLW is the floor of the unsigned word; 0 when `c` is above 15. -/
theorem wordLane_psrlw (hk : k < 4) :
    (wordLane (psrlw d c) k).toNat = if c > 15 then 0 else (wordLane d k).toNat / 2 ^ c := by
  rw [psrlw, wordLane_ofWords _ hk, toNat_cutOffShift, toNat_div_two_pow_mod]

/-- R259: a doubleword of PSRLD is the floor of the unsigned doubleword; 0 when `c` is above 31. -/
theorem dwordLane_psrld (hk : k < 2) :
    (dwordLane (psrld d c) k).toNat = if c > 31 then 0 else (dwordLane d k).toNat / 2 ^ c := by
  rw [psrld, dwordLane_ofDwords _ hk, toNat_cutOffShift, toNat_div_two_pow_mod]

/-- R260: PSRLQ is the floor of the unsigned quadword; 0 when `c` is above 63. -/
theorem toNat_psrlq : (psrlq d c).toNat = if c > 63 then 0 else d.toNat / 2 ^ c := by
  rw [psrlq, toNat_cutOffShift, toNat_div_two_pow_mod]

end

/-! ## Rows with an imm8 count -/

/-- A row whose meaning is the imm8 template with the result `f` completes with that result, so it has every property
that `f` has (R251). -/
theorem mmxImmResult_of_mmxRunImm {mk : MReg → Byte → Instr} {f : Qword → Nat → Qword} {P : Qword → Nat → Qword → Prop}
    (hrun : ∀ dst ib s, exec (mk dst ib) s = mmxRunImm (mk dst ib) dst ib f s) (hf : ∀ d c, P d c (f d c)) :
    MmxImmResult mk P := by
  intro dst ib s havail
  refine ⟨f (s.getMm dst) ib.toNat, ?_, hf _ _⟩
  rw [hrun]
  exact mmxRunImm_next.2 ⟨havail, rfl⟩

/-! ## The rows are the two templates with these shifts

In the register and memory form the count is the whole operand as an unsigned integer (R251, R252). -/

section
variable (dst : MReg) (src : MmSrc) (ib : Byte) (s : State)

theorem exec_psllw :
    exec (.psllw dst src) s = mmxRun (.psllw dst src) dst src 8 (fun d v => psllw d v.toNat) s := rfl

theorem exec_psllwImm : exec (.psllwImm dst ib) s = mmxRunImm (.psllwImm dst ib) dst ib psllw s := rfl

theorem exec_pslld :
    exec (.pslld dst src) s = mmxRun (.pslld dst src) dst src 8 (fun d v => pslld d v.toNat) s := rfl

theorem exec_pslldImm : exec (.pslldImm dst ib) s = mmxRunImm (.pslldImm dst ib) dst ib pslld s := rfl

theorem exec_psllq :
    exec (.psllq dst src) s = mmxRun (.psllq dst src) dst src 8 (fun d v => psllq d v.toNat) s := rfl

theorem exec_psllqImm : exec (.psllqImm dst ib) s = mmxRunImm (.psllqImm dst ib) dst ib psllq s := rfl

theorem exec_psraw :
    exec (.psraw dst src) s = mmxRun (.psraw dst src) dst src 8 (fun d v => psraw d v.toNat) s := rfl

theorem exec_psrawImm : exec (.psrawImm dst ib) s = mmxRunImm (.psrawImm dst ib) dst ib psraw s := rfl

theorem exec_psrad :
    exec (.psrad dst src) s = mmxRun (.psrad dst src) dst src 8 (fun d v => psrad d v.toNat) s := rfl

theorem exec_psradImm : exec (.psradImm dst ib) s = mmxRunImm (.psradImm dst ib) dst ib psrad s := rfl

theorem exec_psrlw :
    exec (.psrlw dst src) s = mmxRun (.psrlw dst src) dst src 8 (fun d v => psrlw d v.toNat) s := rfl

theorem exec_psrlwImm : exec (.psrlwImm dst ib) s = mmxRunImm (.psrlwImm dst ib) dst ib psrlw s := rfl

theorem exec_psrld :
    exec (.psrld dst src) s = mmxRun (.psrld dst src) dst src 8 (fun d v => psrld d v.toNat) s := rfl

theorem exec_psrldImm : exec (.psrldImm dst ib) s = mmxRunImm (.psrldImm dst ib) dst ib psrld s := rfl

theorem exec_psrlq :
    exec (.psrlq dst src) s = mmxRun (.psrlq dst src) dst src 8 (fun d v => psrlq d v.toNat) s := rfl

theorem exec_psrlqImm : exec (.psrlqImm dst ib) s = mmxRunImm (.psrlqImm dst ib) dst ib psrlq s := rfl

end

/-- Settles O28: the two forms of a row are the two templates with one left shift, and a lemma about that shift at any
count serves both. -/
theorem shiftLeftLogical : Obligations.ShiftLeftLogical :=
  ⟨⟨rfl, mmxResult_of_mmxRun exec_psllw fun d v _ hk => wordLane_psllw d v.toNat hk⟩,
    ⟨rfl, mmxImmResult_of_mmxRunImm exec_psllwImm fun d c _ hk => wordLane_psllw d c hk⟩,
    ⟨rfl, mmxResult_of_mmxRun exec_pslld fun d v _ hk => dwordLane_pslld d v.toNat hk⟩,
    ⟨rfl, mmxImmResult_of_mmxRunImm exec_pslldImm fun d c _ hk => dwordLane_pslld d c hk⟩,
    ⟨rfl, mmxResult_of_mmxRun exec_psllq fun d v => toNat_psllq d v.toNat⟩,
    ⟨rfl, mmxImmResult_of_mmxRunImm exec_psllqImm toNat_psllq⟩⟩

/-- Settles O29: as for the left shifts; each element is an exact floor, and the floor by the greatest count is the sign.
The shift group of the quadword has no arithmetic row. -/
theorem shiftRightArithmetic : Obligations.ShiftRightArithmetic :=
  ⟨⟨rfl, mmxResult_of_mmxRun exec_psraw fun d v _ hk =>
      ⟨toInt_wordLane_psraw d v.toNat hk, wordLane_psraw_of_gt d v.toNat hk⟩⟩,
    ⟨rfl, mmxImmResult_of_mmxRunImm exec_psrawImm fun d c _ hk =>
      ⟨toInt_wordLane_psraw d c hk, wordLane_psraw_of_gt d c hk⟩⟩,
    ⟨rfl, mmxResult_of_mmxRun exec_psrad fun d v _ hk =>
      ⟨toInt_dwordLane_psrad d v.toNat hk, dwordLane_psrad_of_gt d v.toNat hk⟩⟩,
    ⟨rfl, mmxImmResult_of_mmxRunImm exec_psradImm fun d c _ hk =>
      ⟨toInt_dwordLane_psrad d c hk, dwordLane_psrad_of_gt d c hk⟩⟩,
    rfl⟩

/-- Settles O30: as for the left shifts, with the floor in the place of the truncated product. -/
theorem shiftRightLogical : Obligations.ShiftRightLogical :=
  ⟨⟨rfl, mmxResult_of_mmxRun exec_psrlw fun d v _ hk => wordLane_psrlw d v.toNat hk⟩,
    ⟨rfl, mmxImmResult_of_mmxRunImm exec_psrlwImm fun d c _ hk => wordLane_psrlw d c hk⟩,
    ⟨rfl, mmxResult_of_mmxRun exec_psrld fun d v _ hk => dwordLane_psrld d v.toNat hk⟩,
    ⟨rfl, mmxImmResult_of_mmxRunImm exec_psrldImm fun d c _ hk => dwordLane_psrld d c hk⟩,
    ⟨rfl, mmxResult_of_mmxRun exec_psrlq fun d v => toNat_psrlq d v.toNat⟩,
    ⟨rfl, mmxImmResult_of_mmxRunImm exec_psrlqImm toNat_psrlq⟩⟩

end Sys2Proof.Machine
end

section
/-! Subtraction (47_psub.md R280 to R286): unsigned saturation of a difference, the elements of the seven differences,
and the rows that compute them. -/

namespace Sys2Proof.Machine

/-! ## Unsigned saturation of a difference (00_scope.md R12) -/

/-- A difference of unsigned bytes is never above 255, so `SatU8` cuts it off at 0 alone. -/
theorem toNat_satU8_sub (a b : Byte) : (satU8 ((a.toNat : Int) - b.toNat)).toNat = a.toNat - b.toNat := by
  have hclamp := toNat_satU8 ((a.toNat : Int) - b.toNat)
  have hmax : a.toNat < 2 ^ 8 := a.isLt
  omega

/-- A difference of unsigned words is never above 65535, so `SatU16` cuts it off at 0 alone. -/
theorem toNat_satU16_sub (a b : Word) : (satU16 ((a.toNat : Int) - b.toNat)).toNat = a.toNat - b.toNat := by
  have hclamp := toNat_satU16 ((a.toNat : Int) - b.toNat)
  have hmax : a.toNat < 2 ^ 16 := a.isLt
  omega

/-! ## The elements of the differences -/

section
variable (d v : Qword) {k : Nat}

/-- R280: a byte of PSUBB is the destination's byte minus the source's modulo `2 ^ 8`. -/
theorem byteLane_psubb (hk : k < 8) :
    ((byteLane (psubb d v) k).toNat : Int) = (((byteLane d k).toNat : Int) - (byteLane v k).toNat) % 2 ^ 8 := by
  rw [psubb, byteLane_mapBytes d v _ hk, natCast_toNat_ofInt]

/-- R281: a word of PSUBW is the destination's word minus the source's modulo `2 ^ 16`. -/
theorem wordLane_psubw (hk : k < 4) :
    ((wordLane (psubw d v) k).toNat : Int) = (((wordLane d k).toNat : Int) - (wordLane v k).toNat) % 2 ^ 16 := by
  rw [psubw, wordLane_mapWords d v _ hk, natCast_toNat_ofInt]

/-- R282: a doubleword of PSUBD is the destination's doubleword minus the source's modulo `2 ^ 32`. -/
theorem dwordLane_psubd (hk : k < 2) :
    ((dwordLane (psubd d v) k).toNat : Int) = (((dwordLane d k).toNat : Int) - (dwordLane v k).toNat) % 2 ^ 32 := by
  rw [psubd, dwordLane_mapDwords d v _ hk, natCast_toNat_ofInt]

/-- R283: a byte of PSUBSB is the exact signed difference of the two bytes, clamped to a signed byte. -/
theorem byteLane_psubsb (hk : k < 8) :
    (byteLane (psubsb d v) k).toInt = max (-128) (min 127 ((byteLane d k).toInt - (byteLane v k).toInt)) := by
  rw [psubsb, byteLane_mapBytes d v _ hk, toInt_satS8]

/-- R284: a word of PSUBSW is the exact signed difference of the two words, clamped to a signed word. -/
theorem wordLane_psubsw (hk : k < 4) :
    (wordLane (psubsw d v) k).toInt = max (-32768) (min 32767 ((wordLane d k).toInt - (wordLane v k).toInt)) := by
  rw [psubsw, wordLane_mapWords d v _ hk, toInt_satS16]

/-- R285: a byte of PSUBUSB is the unsigned difference of the two bytes, cut off at 0. -/
theorem byteLane_psubusb (hk : k < 8) :
    (byteLane (psubusb d v) k).toNat = (byteLane d k).toNat - (byteLane v k).toNat := by
  rw [psubusb, byteLane_mapBytes d v _ hk, toNat_satU8_sub]

/-- R286: a word of PSUBUSW is the unsigned difference of the two words, cut off at 0. -/
theorem wordLane_psubusw (hk : k < 4) :
    (wordLane (psubusw d v) k).toNat = (wordLane d k).toNat - (wordLane v k).toNat := by
  rw [psubusw, wordLane_mapWords d v _ hk, toNat_satU16_sub]

end

/-! ## The rows are the MMX template with these differences (40_mmx_common.md R124) -/

section
variable (dst : MReg) (src : MmSrc) (s : State)

theorem exec_psubb : exec (.psubb dst src) s = mmxRun (.psubb dst src) dst src 8 psubb s := rfl

theorem exec_psubw : exec (.psubw dst src) s = mmxRun (.psubw dst src) dst src 8 psubw s := rfl

theorem exec_psubd : exec (.psubd dst src) s = mmxRun (.psubd dst src) dst src 8 psubd s := rfl

theorem exec_psubsb : exec (.psubsb dst src) s = mmxRun (.psubsb dst src) dst src 8 psubsb s := rfl

theorem exec_psubsw : exec (.psubsw dst src) s = mmxRun (.psubsw dst src) dst src 8 psubsw s := rfl

theorem exec_psubusb : exec (.psubusb dst src) s = mmxRun (.psubusb dst src) dst src 8 psubusb s := rfl

theorem exec_psubusw : exec (.psubusw dst src) s = mmxRun (.psubusw dst src) dst src 8 psubusw s := rfl

end

/-- Settles O23: each row is the template, and each element of its result is the destination's element minus the
source's of the same number, truncated to the element. -/
theorem psubWrapsEachElement : Obligations.PsubWrapsEachElement :=
  ⟨⟨rfl, mmxResult_of_mmxRun exec_psubb fun d v _ hk => byteLane_psubb d v hk⟩,
    ⟨rfl, mmxResult_of_mmxRun exec_psubw fun d v _ hk => wordLane_psubw d v hk⟩,
    ⟨rfl, mmxResult_of_mmxRun exec_psubd fun d v _ hk => dwordLane_psubd d v hk⟩⟩

/-- Settles O24: each row is the template, and each element of its result is the exact difference of the two elements
of the same number, clamped to the range of the element; an unsigned one can leave the range only below 0. -/
theorem psubSaturatesEachElement : Obligations.PsubSaturatesEachElement :=
  ⟨⟨rfl, mmxResult_of_mmxRun exec_psubsb fun d v _ hk => byteLane_psubsb d v hk⟩,
    ⟨rfl, mmxResult_of_mmxRun exec_psubsw fun d v _ hk => wordLane_psubsw d v hk⟩,
    ⟨rfl, mmxResult_of_mmxRun exec_psubusb fun d v _ hk => byteLane_psubusb d v hk⟩,
    ⟨rfl, mmxResult_of_mmxRun exec_psubusw fun d v _ hk => wordLane_psubusw d v hk⟩⟩

end Sys2Proof.Machine
end

section
/-! Unpacking (48_punpck.md R300 to R305): the elements of an interleaved quadword, the elements of the six results, and
the rows that compute them. -/

namespace Sys2Proof.Machine

section
variable (d v : Qword) {k : Nat}

/-! ## The elements of an interleaved quadword

`pick` numbers the elements that are taken: the high-order ones in the high forms, the low-order ones in the low forms. -/

/-- Where the bytes picked from `d` and from `v` alternate, those of `d` have the even numbers and those of `v` the
odd. -/
theorem byteLane_interleave (pick : Nat → Nat) (hk : k < 4) :
    let r := ofBytes fun j => byteLane (if j % 2 = 0 then d else v) (pick (j / 2))
    byteLane r (2 * k) = byteLane d (pick k) ∧ byteLane r (2 * k + 1) = byteLane v (pick k) := by
  have hodd : (2 * k + 1) / 2 = k := by omega
  constructor
  · rw [byteLane_ofBytes _ (by omega), if_pos (Nat.mul_mod_right 2 k), Nat.mul_div_cancel_left k two_pos]
  · rw [byteLane_ofBytes _ (by omega), if_neg (by omega), hodd]

/-- As for the bytes, the words of `d` have the even numbers and those of `v` the odd. -/
theorem wordLane_interleave (pick : Nat → Nat) (hk : k < 2) :
    let r := ofWords fun j => wordLane (if j % 2 = 0 then d else v) (pick (j / 2))
    wordLane r (2 * k) = wordLane d (pick k) ∧ wordLane r (2 * k + 1) = wordLane v (pick k) := by
  have hodd : (2 * k + 1) / 2 = k := by omega
  constructor
  · rw [wordLane_ofWords _ (by omega), if_pos (Nat.mul_mod_right 2 k), Nat.mul_div_cancel_left k two_pos]
  · rw [wordLane_ofWords _ (by omega), if_neg (by omega), hodd]

/-- Of two doublewords taken from `d` and from `v`, that of `d` is the lower. -/
theorem dwordLane_interleave (n : Nat) :
    let r := ofDwords fun j => dwordLane (if j = 0 then d else v) n
    dwordLane r 0 = dwordLane d n ∧ dwordLane r 1 = dwordLane v n := by
  constructor
  · rw [dwordLane_ofDwords _ two_pos, if_pos rfl]
  · rw [dwordLane_ofDwords _ one_lt_two, if_neg one_ne_zero]

/-! ## The elements of the high forms -/

/-- R300: PUNPCKHBW interleaves the bytes 4 to 7. -/
theorem byteLane_punpckhbw (hk : k < 4) :
    byteLane (punpckhbw d v) (2 * k) = byteLane d (4 + k) ∧
      byteLane (punpckhbw d v) (2 * k + 1) = byteLane v (4 + k) :=
  byteLane_interleave d v (4 + ·) hk

/-- R301: PUNPCKHWD interleaves the words 2 and 3. -/
theorem wordLane_punpckhwd (hk : k < 2) :
    wordLane (punpckhwd d v) (2 * k) = wordLane d (2 + k) ∧
      wordLane (punpckhwd d v) (2 * k + 1) = wordLane v (2 + k) :=
  wordLane_interleave d v (2 + ·) hk

/-- R302: PUNPCKHDQ joins the two high doublewords. -/
theorem dwordLane_punpckhdq :
    dwordLane (punpckhdq d v) 0 = dwordLane d 1 ∧ dwordLane (punpckhdq d v) 1 = dwordLane v 1 :=
  dwordLane_interleave d v 1

/-! ## The elements of the low forms -/

/-- R303: PUNPCKLBW interleaves the bytes 0 to 3. -/
theorem byteLane_punpcklbw (hk : k < 4) :
    byteLane (punpcklbw d v) (2 * k) = byteLane d k ∧ byteLane (punpcklbw d v) (2 * k + 1) = byteLane v k :=
  byteLane_interleave d v id hk

/-- R304: PUNPCKLWD interleaves the words 0 and 1. -/
theorem wordLane_punpcklwd (hk : k < 2) :
    wordLane (punpcklwd d v) (2 * k) = wordLane d k ∧ wordLane (punpcklwd d v) (2 * k + 1) = wordLane v k :=
  wordLane_interleave d v id hk

/-- R305: PUNPCKLDQ joins the two low doublewords. -/
theorem dwordLane_punpckldq :
    dwordLane (punpckldq d v) 0 = dwordLane d 0 ∧ dwordLane (punpckldq d v) 1 = dwordLane v 0 :=
  dwordLane_interleave d v 0

end

/-! ## The rows are the MMX template with these results (40_mmx_common.md R124)

The high forms read 8 bytes of a memory source, the low forms 4. -/

section
variable (dst : MReg) (src : MmSrc) (s : State)

theorem exec_punpckhbw : exec (.punpckhbw dst src) s = mmxRun (.punpckhbw dst src) dst src 8 punpckhbw s := rfl

theorem exec_punpckhwd : exec (.punpckhwd dst src) s = mmxRun (.punpckhwd dst src) dst src 8 punpckhwd s := rfl

theorem exec_punpckhdq : exec (.punpckhdq dst src) s = mmxRun (.punpckhdq dst src) dst src 8 punpckhdq s := rfl

theorem exec_punpcklbw : exec (.punpcklbw dst src) s = mmxRun (.punpcklbw dst src) dst src 4 punpcklbw s := rfl

theorem exec_punpcklwd : exec (.punpcklwd dst src) s = mmxRun (.punpcklwd dst src) dst src 4 punpcklwd s := rfl

theorem exec_punpckldq : exec (.punpckldq dst src) s = mmxRun (.punpckldq dst src) dst src 4 punpckldq s := rfl

end

/-- Settles O31: each row is the template with the operand size of its form, and its result alternates the picked
elements of the old destination and of the source. -/
theorem unpackInterleaves : Obligations.UnpackInterleaves :=
  ⟨⟨rfl, mmxResult_of_mmxRun exec_punpckhbw fun d v _ hk => byteLane_punpckhbw d v hk⟩,
    ⟨rfl, mmxResult_of_mmxRun exec_punpckhwd fun d v _ hk => wordLane_punpckhwd d v hk⟩,
    ⟨rfl, mmxResult_of_mmxRun exec_punpckhdq dwordLane_punpckhdq⟩,
    ⟨rfl, mmxResult_of_mmxRun exec_punpcklbw fun d v _ hk => byteLane_punpcklbw d v hk⟩,
    ⟨rfl, mmxResult_of_mmxRun exec_punpcklwd fun d v _ hk => wordLane_punpcklwd d v hk⟩,
    ⟨rfl, mmxResult_of_mmxRun exec_punpckldq dwordLane_punpckldq⟩⟩

end Sys2Proof.Machine
end

section
/-! The decoder, prefixes and fields (30_encoding.md R82 to R94): which bytes each reading step takes, and what they say.
Every step is characterised once, in both directions, so that reading what was written and counting what was read are
two uses of one lemma. -/

namespace Sys2Proof

/-! ## Sequencing, and the fixed-width fields (R94) -/

/-- A reading step followed by another succeeds when both do. -/
theorem read_bind_ok {α β : Type} {x : Except DecodeError α} {f : α → Except DecodeError β} {b : β} :
    (x >>= f) = .ok b ↔ ∃ a, x = .ok a ∧ f a = .ok b := by
  cases x <;> simp [bind, Except.bind]

theorem read_ok_bind {α β : Type} (a : α) (f : α → Except DecodeError β) : (Except.ok a >>= f) = f a := rfl

theorem take8_ok {bs rest : List Byte} {b : Byte} : take8 bs = .ok (b, rest) ↔ bs = b :: rest := by
  cases bs <;> simp [take8]

/-- The bytes of two bytes put together are those two bytes. -/
theorem bytes16_append (hi lo : Byte) : bytes16 (hi ++ lo) = [lo, hi] := by
  simp only [bytes16, List.cons.injEq, and_true]
  exact ⟨Machine.extractLsb'_append_low hi lo,
    (Machine.extractLsb'_append_high hi lo 8 8 (by omega)).trans (BitVec.extractLsb'_eq_self)⟩

/-- The bytes of four bytes put together are those four bytes. -/
theorem bytes32_append (b3 b2 b1 b0 : Byte) : bytes32 (b3 ++ b2 ++ b1 ++ b0) = [b0, b1, b2, b3] := by
  simp only [bytes32, List.cons.injEq, and_true]
  refine ⟨Machine.extractLsb'_append_low (b3 ++ b2 ++ b1) b0, ?_, ?_, ?_⟩
  · exact (Machine.extractLsb'_append_high (b3 ++ b2 ++ b1) b0 8 8 (by omega)).trans
      (Machine.extractLsb'_append_low (b3 ++ b2) b1)
  · exact (Machine.extractLsb'_append_high (b3 ++ b2 ++ b1) b0 16 8 (by omega)).trans
      ((Machine.extractLsb'_append_high (b3 ++ b2) b1 8 8 (by omega)).trans (Machine.extractLsb'_append_low b3 b2))
  · exact (Machine.extractLsb'_append_high (b3 ++ b2 ++ b1) b0 24 8 (by omega)).trans
      ((Machine.extractLsb'_append_high (b3 ++ b2) b1 16 8 (by omega)).trans
        ((Machine.extractLsb'_append_high b3 b2 8 8 (by omega)).trans BitVec.extractLsb'_eq_self))

theorem take16_ok {bs rest : List Byte} {v : Word} : take16 bs = .ok (v, rest) ↔ bs = bytes16 v ++ rest := by
  constructor
  · intro h
    match bs, h with
    | b0 :: b1 :: bs, h =>
      obtain ⟨rfl, rfl⟩ := Prod.mk.inj (Except.ok.inj h)
      rw [bytes16_append]
      rfl
  · rintro rfl
    exact take16_bytes16 v rest

theorem take32_ok {bs rest : List Byte} {v : Dword} : take32 bs = .ok (v, rest) ↔ bs = bytes32 v ++ rest := by
  constructor
  · intro h
    match bs, h with
    | b0 :: b1 :: b2 :: b3 :: bs, h =>
      obtain ⟨rfl, rfl⟩ := Prod.mk.inj (Except.ok.inj h)
      rw [bytes32_append]
      rfl
  · rintro rfl
    exact take32_bytes32 v rest

/-- A byte is its three fields. -/
@[simp] theorem fieldByte_fields (b : Byte) : fieldByte (modField b) (regField b) (rmField b) = b := by
  revert b; decide

/-! ## Prefixes (R82, R83) -/

theorem prefixKind_opSize {b : Byte} : prefixKind b = some .opSize → b = 0x66 := by revert b; decide

theorem prefixKind_addrSize {b : Byte} : prefixKind b = some .addrSize → b = 0x67 := by revert b; decide

theorem prefixKind_segment {b : Byte} {S : SReg} : prefixKind b = some (.segment S) → b = S.overrideByte := by
  revert b; cases S <;> decide

@[simp] theorem prefixKind_overrideByte (S : SReg) : prefixKind S.overrideByte = some (.segment S) := by cases S <;> rfl

theorem overrideByte_inj {S T : SReg} (h : S.overrideByte = T.overrideByte) : S = T := by
  have hk := congrArg prefixKind h
  simpa using hk

/-- The bytes `ps` are prefixes, each of a column that is still free, and turn the prefixes `p` seen so far into `q`. -/
inductive Scans : Prefixes → List Byte → Prefixes → Prop where
  | done (p : Prefixes) : Scans p [] p
  | opSize {p q : Prefixes} {ps : List Byte} (free : p.op66 = false) (tail : Scans { p with op66 := true } ps q) :
      Scans p (0x66 :: ps) q
  | addrSize {p q : Prefixes} {ps : List Byte} (free : p.addr67 = false) (tail : Scans { p with addr67 := true } ps q) :
      Scans p (0x67 :: ps) q
  | segment {p q : Prefixes} {ps : List Byte} (S : SReg) (free : p.seg = none)
      (tail : Scans { p with seg := some S } ps q) : Scans p (S.overrideByte :: ps) q

section
variable {p : Prefixes} (bs : List Byte)

theorem scanPrefixes_opSize (free : p.op66 = false) :
    scanPrefixes p (0x66 :: bs) = scanPrefixes { p with op66 := true } bs := by
  rw [scanPrefixes, show prefixKind 0x66 = some .opSize from rfl]
  simp only [free, Bool.false_eq_true, if_false]

theorem scanPrefixes_addrSize (free : p.addr67 = false) :
    scanPrefixes p (0x67 :: bs) = scanPrefixes { p with addr67 := true } bs := by
  rw [scanPrefixes, show prefixKind 0x67 = some .addrSize from rfl]
  simp only [free, Bool.false_eq_true, if_false]

theorem scanPrefixes_segment (S : SReg) (free : p.seg = none) :
    scanPrefixes p (S.overrideByte :: bs) = scanPrefixes { p with seg := some S } bs := by
  rw [scanPrefixes, prefixKind_overrideByte]
  simp only [free, Option.isSome_none, Bool.false_eq_true, if_false]

end

/-- What the scan reads: prefixes, up to a byte that is none. -/
theorem scanPrefixes_ok {p q : Prefixes} {bs rest : List Byte} :
    scanPrefixes p bs = .ok (q, rest) ↔
      ∃ ps b tail, bs = ps ++ rest ∧ rest = b :: tail ∧ prefixKind b = none ∧ Scans p ps q := by
  constructor
  · intro h
    induction bs generalizing p with
    | nil => cases h
    | cons b bs ih =>
      unfold scanPrefixes at h
      split at h
      case h_1 hb =>
        cases h
        exact ⟨[], b, bs, rfl, rfl, hb, .done _⟩
      case h_2 hb =>
        obtain rfl := prefixKind_opSize hb
        split at h
        · cases h
        · rename_i hfree
          obtain ⟨ps, c, tail, rfl, hrest, hc, hs⟩ := ih h
          exact ⟨_ :: ps, c, tail, rfl, hrest, hc, .opSize (by simpa using hfree) hs⟩
      case h_3 hb =>
        obtain rfl := prefixKind_addrSize hb
        split at h
        · cases h
        · rename_i hfree
          obtain ⟨ps, c, tail, rfl, hrest, hc, hs⟩ := ih h
          exact ⟨_ :: ps, c, tail, rfl, hrest, hc, .addrSize (by simpa using hfree) hs⟩
      case h_4 S hb =>
        obtain rfl := prefixKind_segment hb
        split at h
        · cases h
        · rename_i hfree
          obtain ⟨ps, c, tail, rfl, hrest, hc, hs⟩ := ih h
          exact ⟨_ :: ps, c, tail, rfl, hrest, hc, .segment S (by simpa using hfree) hs⟩
      case h_5 => cases h
  · rintro ⟨ps, b, tail, rfl, rfl, hb, hs⟩
    induction hs with
    | done p => simp [scanPrefixes, hb]
    | opSize free _ ih => rwa [List.cons_append, scanPrefixes_opSize _ free]
    | addrSize free _ ih => rwa [List.cons_append, scanPrefixes_addrSize _ free]
    | segment S free _ ih => rwa [List.cons_append, scanPrefixes_segment _ S free]

/-- How many columns of R83 the prefixes fill. -/
def Prefixes.count (p : Prefixes) : Nat := p.op66.toNat + p.addr67.toNat + p.seg.isSome.toNat

theorem overrideByte_ne (S : SReg) : S.overrideByte ≠ 0x66 ∧ S.overrideByte ≠ 0x67 := by cases S <;> decide

/-- A byte other than the first is in the rest. -/
theorem mem_cons_iff_of_ne {b c : Byte} {ps : List Byte} (h : b ≠ c) : b ∈ c :: ps ↔ b ∈ ps :=
  List.mem_cons.trans (or_iff_right h)

namespace Scans

variable {p q : Prefixes} {ps : List Byte}

/-- Every byte read fills one column. -/
theorem length_eq (h : Scans p ps q) : q.count = p.count + ps.length := by
  induction h with
  | done p => rfl
  | opSize free _ ih =>
    rw [ih]
    simp only [Prefixes.count, free, List.length_cons, Bool.toNat_true, Bool.toNat_false]
    omega
  | addrSize free _ ih =>
    rw [ih]
    simp only [Prefixes.count, free, List.length_cons, Bool.toNat_true, Bool.toNat_false]
    omega
  | segment S free _ ih =>
    rw [ih]
    simp only [Prefixes.count, free, List.length_cons, Option.isSome_some, Option.isSome_none, Bool.toNat_true,
      Bool.toNat_false]
    omega

/-- Only the prefixes that R83 admits are read. -/
theorem mem_cases (h : Scans p ps q) : ∀ b ∈ ps, b = 0x66 ∨ b = 0x67 ∨ ∃ S : SReg, b = S.overrideByte := by
  induction h with
  | done p => simp
  | opSize _ _ ih => exact List.forall_mem_cons.2 ⟨.inl rfl, ih⟩
  | addrSize _ _ ih => exact List.forall_mem_cons.2 ⟨.inr (.inl rfl), ih⟩
  | segment S _ _ ih => exact List.forall_mem_cons.2 ⟨.inr (.inr ⟨S, rfl⟩), ih⟩

/-! What is read was free before, and is filled after. -/

theorem op66_free (h : Scans p ps q) (hm : 0x66 ∈ ps) : p.op66 = false := by
  induction h with
  | done p => cases hm
  | opSize free _ _ => exact free
  | addrSize _ _ ih => exact ih (by simpa using hm)
  | segment S _ _ ih => exact ih ((mem_cons_iff_of_ne (overrideByte_ne S).1.symm).1 hm)

theorem op66_iff (h : Scans p ps q) : q.op66 = true ↔ p.op66 = true ∨ 0x66 ∈ ps := by
  induction h with
  | done p => simp
  | opSize _ _ ih => simpa using ih
  | addrSize _ _ ih => simpa using ih
  | segment S _ _ ih => rwa [mem_cons_iff_of_ne (overrideByte_ne S).1.symm]

theorem addr67_free (h : Scans p ps q) (hm : 0x67 ∈ ps) : p.addr67 = false := by
  induction h with
  | done p => cases hm
  | opSize _ _ ih => exact ih (by simpa using hm)
  | addrSize free _ _ => exact free
  | segment S _ _ ih => exact ih ((mem_cons_iff_of_ne (overrideByte_ne S).2.symm).1 hm)

theorem addr67_iff (h : Scans p ps q) : q.addr67 = true ↔ p.addr67 = true ∨ 0x67 ∈ ps := by
  induction h with
  | done p => simp
  | opSize _ _ ih => simpa using ih
  | addrSize _ _ ih => simpa using ih
  | segment S _ _ ih => rwa [mem_cons_iff_of_ne (overrideByte_ne S).2.symm]

theorem seg_free (h : Scans p ps q) {S : SReg} (hm : S.overrideByte ∈ ps) : p.seg = none := by
  induction h with
  | done p => cases hm
  | opSize _ _ ih => exact ih ((mem_cons_iff_of_ne (overrideByte_ne S).1).1 hm)
  | addrSize _ _ ih => exact ih ((mem_cons_iff_of_ne (overrideByte_ne S).2).1 hm)
  | segment _ free _ _ => exact free

theorem seg_iff (h : Scans p ps q) (S : SReg) : q.seg = some S ↔ p.seg = some S ∨ S.overrideByte ∈ ps := by
  induction h with
  | done p => simp
  | opSize _ _ ih => rwa [mem_cons_iff_of_ne (overrideByte_ne S).1]
  | addrSize _ _ ih => rwa [mem_cons_iff_of_ne (overrideByte_ne S).2]
  | segment T free _ ih =>
    have hT : T = S ↔ S.overrideByte = T.overrideByte := ⟨fun h => h ▸ rfl, fun h => (overrideByte_inj h).symm⟩
    simpa [free, hT] using ih

/-- Nothing is read twice. -/
theorem nodup (h : Scans p ps q) : ps.Nodup := by
  induction h with
  | done p => exact .nil
  | opSize _ tail ih => exact List.nodup_cons.2 ⟨fun hm => (nomatch tail.op66_free hm), ih⟩
  | addrSize _ tail ih => exact List.nodup_cons.2 ⟨fun hm => (nomatch tail.addr67_free hm), ih⟩
  | segment S _ tail ih => exact List.nodup_cons.2 ⟨fun hm => (nomatch tail.seg_free hm), ih⟩

/-- The bytes read are prefixes of R82, and none is LOCK or REP. -/
theorem prefixKind_mem (h : Scans p ps q) :
    ∀ b ∈ ps, (prefixKind b).isSome = true ∧ prefixKind b ≠ some .lockOrRep := by
  intro b hb
  rcases h.mem_cases b hb with rfl | rfl | ⟨S, rfl⟩
  · decide
  · decide
  · simp

end Scans
end Sys2Proof
end

section
/-! The decoder, ModR/M and SIB (30_encoding.md R87 to R93): an operand of an addressing form is the bytes that the
encoder writes for it, and every such byte string is read back. -/

namespace Sys2Proof

/-! ## Addressing forms that the tables have -/

theorem Addr.wf_a16 {b : Base16} {d : Disp16} : (Addr.a16 b d).wf = true ↔ ¬(b.toBits = 6 ∧ d.mod = 0) := by
  cases b <;> cases d <;> simp [Addr.wf, Base16.toBits, Disp16.mod]

theorem Addr.wf_a32 {b : Reg} {d : Disp32} :
    (Addr.a32 b d).wf = true ↔ b.toBits ≠ 4 ∧ ¬(b.toBits = 5 ∧ d.mod = 0) := by
  cases b <;> cases d <;> simp [Addr.wf, Reg.toBits, Disp32.mod]

theorem Addr.wf_sib {b i : Reg} {sc : BitVec 2} {d : Disp32} :
    (Addr.sib b sc i d).wf = true ↔ ¬(b.toBits = 5 ∧ d.mod = 0) := by
  cases b <;> cases d <;> simp [Addr.wf, Reg.toBits, Disp32.mod]

theorem Disp16.mod_ne_three (d : Disp16) : d.mod ≠ 3 := by cases d <;> simp [Disp16.mod]
theorem Disp32.mod_ne_three (d : Disp32) : d.mod ≠ 3 := by cases d <;> simp [Disp32.mod]

/-! ## Displacements -/

theorem takeDisp16_ok {mod : BitVec 2} (hmod : mod ≠ 3) {bs rest : List Byte} {d : Disp16} :
    takeDisp16 mod bs = .ok (d, rest) ↔ d.mod = mod ∧ bs = d.bytes ++ rest := by
  have hcases : mod = 0 ∨ mod = 1 ∨ mod = 2 := by revert mod; decide
  rcases hcases with rfl | rfl | rfl
  · cases d <;> simp [takeDisp16, Disp16.mod, Disp16.bytes, eq_comm]
  · cases d <;> simp [takeDisp16, Disp16.mod, Disp16.bytes, read_bind_ok, take8_ok]
  · cases d <;> simp [takeDisp16, Disp16.mod, Disp16.bytes, read_bind_ok, take16_ok]

theorem takeDisp32_ok {mod : BitVec 2} (hmod : mod ≠ 3) {bs rest : List Byte} {d : Disp32} :
    takeDisp32 mod bs = .ok (d, rest) ↔ d.mod = mod ∧ bs = d.bytes ++ rest := by
  have hcases : mod = 0 ∨ mod = 1 ∨ mod = 2 := by revert mod; decide
  rcases hcases with rfl | rfl | rfl
  · cases d <;> simp [takeDisp32, Disp32.mod, Disp32.bytes, eq_comm]
  · cases d <;> simp [takeDisp32, Disp32.mod, Disp32.bytes, read_bind_ok, take8_ok]
  · cases d <;> simp [takeDisp32, Disp32.mod, Disp32.bytes, read_bind_ok, take32_ok]

/-! ## Reading an addressing form -/

section
variable {mod : BitVec 2} {rm : BitVec 3} {bs rest : List Byte} {a : Addr}

/-- What the 16-bit table reads is the encoding of a form that it has (R91). -/
theorem decodeAddr16_ok (hmod : mod ≠ 3) (h : decodeAddr16 mod rm bs = .ok (a, rest)) :
    a.wf = true ∧ a.is32 = false ∧ ∀ r, fieldByte mod r rm :: bs = a.modrmBytes r ++ rest := by
  unfold decodeAddr16 at h
  split at h
  case isTrue hc =>
    obtain ⟨rfl, rfl⟩ := hc
    obtain ⟨⟨o, bs⟩, ho, h⟩ := read_bind_ok.1 h
    cases h
    rw [take16_ok.1 ho]
    exact ⟨rfl, rfl, fun r => rfl⟩
  case isFalse hc =>
    obtain ⟨⟨d, bs⟩, hd, h⟩ := read_bind_ok.1 h
    cases h
    obtain ⟨rfl, rfl⟩ := (takeDisp16_ok hmod).1 hd
    refine ⟨Addr.wf_a16.2 ?_, rfl, fun r => by simp [Addr.modrmBytes]⟩
    rwa [Base16.toBits_ofBits]

/-- The SIB byte read, the base field and `mod` decide whether there is a base register (R93). -/
theorem decodeSib_cons (mod : BitVec 2) (sib : Byte) (bs : List Byte) :
    decodeSib mod (sib :: bs) =
      if rmField sib = 5 ∧ mod = 0 then
        take32 bs >>= fun x => .ok (.sibNoBase (modField sib) (Reg.ofBits (regField sib)) x.1, x.2)
      else
        takeDisp32 mod bs >>= fun x =>
          .ok (.sib (Reg.ofBits (rmField sib)) (modField sib) (Reg.ofBits (regField sib)) x.1, x.2) := rfl

/-- What a SIB byte begins is the encoding of a form that has one (R93). -/
theorem decodeSib_ok (hmod : mod ≠ 3) (h : decodeSib mod bs = .ok (a, rest)) :
    a.wf = true ∧ a.is32 = true ∧ ∀ r, fieldByte mod r 4 :: bs = a.modrmBytes r ++ rest := by
  obtain ⟨⟨sib, tail⟩, hs, -⟩ := read_bind_ok.1 h
  obtain rfl := take8_ok.1 hs
  rw [decodeSib_cons] at h
  split at h
  case isTrue hc =>
    obtain ⟨hbase, rfl⟩ := hc
    obtain ⟨⟨o, bs⟩, ho, h⟩ := read_bind_ok.1 h
    cases h
    rw [take32_ok.1 ho]
    refine ⟨rfl, rfl, fun r => ?_⟩
    rw [Addr.modrmBytes, Reg.toBits_ofBits, ← hbase, fieldByte_fields]
    rfl
  case isFalse hc =>
    obtain ⟨⟨d, bs⟩, hd, h⟩ := read_bind_ok.1 h
    cases h
    obtain ⟨rfl, rfl⟩ := (takeDisp32_ok hmod).1 hd
    refine ⟨Addr.wf_sib.2 ?_, rfl, fun r => by simp [Addr.modrmBytes]⟩
    rwa [Reg.toBits_ofBits]

/-- What the 32-bit table reads is the encoding of a form that it has (R90). -/
theorem decodeAddr32_ok (hmod : mod ≠ 3) (h : decodeAddr32 mod rm bs = .ok (a, rest)) :
    a.wf = true ∧ a.is32 = true ∧ ∀ r, fieldByte mod r rm :: bs = a.modrmBytes r ++ rest := by
  unfold decodeAddr32 at h
  split at h
  case isTrue hc =>
    subst hc
    exact decodeSib_ok hmod h
  case isFalse hesp =>
    split at h
    case isTrue hc =>
      obtain ⟨rfl, rfl⟩ := hc
      obtain ⟨⟨o, bs⟩, ho, h⟩ := read_bind_ok.1 h
      cases h
      rw [take32_ok.1 ho]
      exact ⟨rfl, rfl, fun r => rfl⟩
    case isFalse hc =>
      obtain ⟨⟨d, bs⟩, hd, h⟩ := read_bind_ok.1 h
      cases h
      obtain ⟨rfl, rfl⟩ := (takeDisp32_ok hmod).1 hd
      refine ⟨Addr.wf_a32.2 ?_, rfl, fun r => by simp [Addr.modrmBytes]⟩
      rw [Reg.toBits_ofBits]
      exact ⟨hesp, hc⟩

end

/-! ## Reading back an addressing form -/

section
variable (rest : List Byte)

theorem decodeAddr16_a16 {b : Base16} {d : Disp16} (hwf : (Addr.a16 b d).wf = true) :
    decodeAddr16 d.mod b.toBits (d.bytes ++ rest) = .ok (.a16 b d, rest) := by
  rw [Addr.wf_a16] at hwf
  rw [decodeAddr16, if_neg hwf]
  exact read_bind_ok.2 ⟨_, (takeDisp16_ok d.mod_ne_three).2 ⟨rfl, rfl⟩, by simp⟩

theorem decodeAddr32_a32 {b : Reg} {d : Disp32} (hwf : (Addr.a32 b d).wf = true) :
    decodeAddr32 d.mod b.toBits (d.bytes ++ rest) = .ok (.a32 b d, rest) := by
  rw [Addr.wf_a32] at hwf
  rw [decodeAddr32, if_neg hwf.1, if_neg hwf.2]
  exact read_bind_ok.2 ⟨_, (takeDisp32_ok d.mod_ne_three).2 ⟨rfl, rfl⟩, by simp⟩

theorem decodeSib_sib {b i : Reg} {sc : BitVec 2} {d : Disp32} (hwf : (Addr.sib b sc i d).wf = true) :
    decodeSib d.mod (fieldByte sc i.toBits b.toBits :: d.bytes ++ rest) = .ok (.sib b sc i d, rest) := by
  rw [Addr.wf_sib] at hwf
  rw [List.cons_append, decodeSib_cons]
  simp only [rmField_fieldByte, modField_fieldByte, regField_fieldByte, Reg.ofBits_toBits, if_neg hwf]
  exact read_bind_ok.2 ⟨_, (takeDisp32_ok d.mod_ne_three).2 ⟨rfl, rfl⟩, rfl⟩

theorem decodeSib_sibNoBase (sc : BitVec 2) (i : Reg) (o : Dword) :
    decodeSib 0 (fieldByte sc i.toBits 5 :: bytes32 o ++ rest) = .ok (.sibNoBase sc i o, rest) := by
  rw [List.cons_append, decodeSib_cons]
  simp only [rmField_fieldByte, modField_fieldByte, regField_fieldByte, Reg.ofBits_toBits, and_self, if_true]
  exact read_bind_ok.2 ⟨_, take32_ok.2 rfl, rfl⟩

end

/-- The ModR/M byte read, `mod` decides between a register and an addressing form (R87, R88). -/
theorem decodeModRM_cons (a32 : Bool) (m : Byte) (bs : List Byte) :
    decodeModRM a32 (m :: bs) =
      if modField m = 3 then .ok (m, .reg (rmField m), bs)
      else
        (if a32 then decodeAddr32 (modField m) (rmField m) bs else decodeAddr16 (modField m) (rmField m) bs) >>=
          fun x => .ok (m, .mem x.1, x.2) := by
  cases a32 <;> rfl

/-- With a ModR/M byte whose `mod` is not 3 the operand is what the table of the address size reads. -/
theorem decodeModRM_addr {a32 : Bool} {m : Byte} {bs rest : List Byte} {a : Addr} (hmod : modField m ≠ 3)
    (h : (if a32 then decodeAddr32 (modField m) (rmField m) bs else decodeAddr16 (modField m) (rmField m) bs) =
      .ok (a, rest)) : decodeModRM a32 (m :: bs) = .ok (m, .mem a, rest) := by
  rw [decodeModRM_cons, if_neg hmod]
  exact read_bind_ok.2 ⟨_, h, rfl⟩

/-- An addressing form that the tables have is read back from its encoding. -/
theorem decodeModRM_modrmBytes {a : Addr} (hwf : a.wf = true) (r : BitVec 3) (rest : List Byte) :
    ∃ m, regField m = r ∧ decodeModRM a.is32 (a.modrmBytes r ++ rest) = .ok (m, .mem a, rest) := by
  cases a with
  | a16 b d =>
    refine ⟨_, regField_fieldByte d.mod r b.toBits, decodeModRM_addr (by simpa using d.mod_ne_three) ?_⟩
    simpa [Addr.is32] using decodeAddr16_a16 rest hwf
  | abs16 o =>
    refine ⟨_, regField_fieldByte 0 r 6, decodeModRM_addr (by simp) ?_⟩
    simp [Addr.is32, decodeAddr16, read_bind_ok]
  | a32 b d =>
    refine ⟨_, regField_fieldByte d.mod r b.toBits, decodeModRM_addr (by simpa using d.mod_ne_three) ?_⟩
    simpa [Addr.is32] using decodeAddr32_a32 rest hwf
  | abs32 o =>
    refine ⟨_, regField_fieldByte 0 r 5, decodeModRM_addr (by simp) ?_⟩
    simp [Addr.is32, decodeAddr32, read_bind_ok]
  | sib b sc i d =>
    refine ⟨_, regField_fieldByte d.mod r 4, decodeModRM_addr (by simpa using d.mod_ne_three) ?_⟩
    simpa [Addr.is32, decodeAddr32] using decodeSib_sib rest hwf
  | sibNoBase sc i o =>
    refine ⟨_, regField_fieldByte 0 r 4, decodeModRM_addr (by simp) ?_⟩
    simpa [Addr.is32, decodeAddr32] using decodeSib_sibNoBase rest sc i o

/-! ## The whole operand (R87, R88) -/

/-- The bytes of the operand that `mod` and `rm` name, with `r` in the field between them. -/
def RmForm.bytes (r : BitVec 3) : RmForm → List Byte
  | .reg n => [fieldByte 3 r n]
  | .mem a => a.modrmBytes r

/-- Has the operand an encoding under the address size? A register always has. -/
def RmForm.fits (a32 : Bool) : RmForm → Prop
  | .reg _ => True
  | .mem a => a.wf = true ∧ a.is32 = a32

/-- An operand that has an encoding is read back from it. -/
theorem decodeModRM_bytes {a32 : Bool} {rm : RmForm} (hfit : rm.fits a32) (r : BitVec 3) (rest : List Byte) :
    ∃ m, regField m = r ∧ decodeModRM a32 (rm.bytes r ++ rest) = .ok (m, rm, rest) := by
  cases rm with
  | reg n =>
    refine ⟨_, regField_fieldByte 3 r n, ?_⟩
    rw [RmForm.bytes, List.singleton_append, decodeModRM_cons, modField_fieldByte, if_pos rfl, rmField_fieldByte]
  | mem a =>
    obtain ⟨hwf, rfl⟩ := hfit
    exact decodeModRM_modrmBytes hwf r rest

/-- What is read as an operand is the encoding of one. -/
theorem decodeModRM_ok {a32 : Bool} {bs rest : List Byte} {m : Byte} {rm : RmForm}
    (h : decodeModRM a32 bs = .ok (m, rm, rest)) : rm.fits a32 ∧ bs = rm.bytes (regField m) ++ rest := by
  obtain ⟨⟨m', tail⟩, hm, -⟩ := read_bind_ok.1 h
  obtain rfl := take8_ok.1 hm
  rw [decodeModRM_cons] at h
  split at h
  case isTrue hmod =>
    cases h
    refine ⟨trivial, ?_⟩
    rw [RmForm.bytes, ← hmod, fieldByte_fields]
    rfl
  case isFalse hmod =>
    obtain ⟨⟨a, tail'⟩, ha, h⟩ := read_bind_ok.1 h
    cases h
    cases a32 with
    | false =>
      obtain ⟨hwf, h32, hbytes⟩ := decodeAddr16_ok hmod ha
      exact ⟨⟨hwf, h32⟩, by rw [RmForm.bytes, ← hbytes, fieldByte_fields]⟩
    | true =>
      obtain ⟨hwf, h32, hbytes⟩ := decodeAddr32_ok hmod ha
      exact ⟨⟨hwf, h32⟩, by rw [RmForm.bytes, ← hbytes, fieldByte_fields]⟩

end Sys2Proof
end

section
/-! The decoder, opcode rows (30_encoding.md R95 to R100): `Row` lists what may follow the prefixes, `decode_ok` says that
the decoder accepts exactly prefixes and a row that they fit, and `encode_row` that the encoder writes exactly that. -/

namespace Sys2Proof

open Machine

/-! ## The rows -/

/-- The second operand of an MMX row as `mod` and `rm` name it. -/
def MmSrc.form : MmSrc → RmForm
  | .reg r => .reg r.toBits
  | .mem m => .mem m.addr

/-- The operand of PUSH r/m as `mod` and `rm` name it. -/
def RmSrc.form : RmSrc → RmForm
  | .reg r => .reg r.toBits
  | .mem m => .mem m.addr

/-- `Row sz m body i`: the bytes of `i` after its prefixes are `body`; `sz` is the operand size that the prefixes must
give (none where 0x66 is not admitted), `m` the memory operand (none where 0x67 and an override are not admitted). -/
inductive Row : Option OpSize → Option MemOp → List Byte → Instr → Prop where
  | mmxRm {op : Byte} {mk : MReg → MmSrc → Instr} (row : mmxRow op = some mk) (dst : MReg) (src : MmSrc)
      (wf : src.wf = true) : Row none (MmSrc.memOp src) (0x0F :: op :: src.form.bytes dst.toBits) (mk dst src)
  | mmxShift {op : Byte} {digit : BitVec 3} {mk : MReg → Byte → Instr} (row : mmxShiftRow op digit = some mk) (dst : MReg)
      (ib : Byte) : Row none none [0x0F, op, fieldByte 3 digit dst.toBits, ib] (mk dst ib)
  | popM16 (m : MemOp) (wf : m.wf = true) : Row (some .w16) (some m) (0x8F :: m.addr.modrmBytes 0) (.popM16 m)
  | popM32 (m : MemOp) (wf : m.wf = true) : Row (some .w32) (some m) (0x8F :: m.addr.modrmBytes 0) (.popM32 m)
  | pushRm16 (src : RmSrc) (wf : src.wf = true) :
      Row (some .w16) (RmSrc.memOp src) (0xFF :: src.form.bytes 6) (.pushRm16 src)
  | pushRm32 (src : RmSrc) (wf : src.wf = true) :
      Row (some .w32) (RmSrc.memOp src) (0xFF :: src.form.bytes 6) (.pushRm32 src)
  | popR16 (r : Reg) : Row (some .w16) none [plusRByte 0x0B r] (.popR16 r)
  | popR32 (r : Reg) : Row (some .w32) none [plusRByte 0x0B r] (.popR32 r)
  | pushR16 (r : Reg) : Row (some .w16) none [plusRByte 0x0A r] (.pushR16 r)
  | pushR32 (r : Reg) : Row (some .w32) none [plusRByte 0x0A r] (.pushR32 r)
  | popDs (sz : OpSize) : Row (some sz) none [0x1F] (.popDs sz)
  | popEs (sz : OpSize) : Row (some sz) none [0x07] (.popEs sz)
  | popSs (sz : OpSize) : Row (some sz) none [0x17] (.popSs sz)
  | popFs (sz : OpSize) : Row (some sz) none [0x0F, 0xA1] (.popFs sz)
  | popGs (sz : OpSize) : Row (some sz) none [0x0F, 0xA9] (.popGs sz)
  | pushCs (sz : OpSize) : Row (some sz) none [0x0E] (.pushCs sz)
  | pushSs (sz : OpSize) : Row (some sz) none [0x16] (.pushSs sz)
  | pushDs (sz : OpSize) : Row (some sz) none [0x1E] (.pushDs sz)
  | pushEs (sz : OpSize) : Row (some sz) none [0x06] (.pushEs sz)
  | pushFs (sz : OpSize) : Row (some sz) none [0x0F, 0xA0] (.pushFs sz)
  | pushGs (sz : OpSize) : Row (some sz) none [0x0F, 0xA8] (.pushGs sz)
  | popa : Row (some .w16) none [0x61] .popa
  | popad : Row (some .w32) none [0x61] .popad
  | popf : Row (some .w16) none [0x9D] .popf
  | popfd : Row (some .w32) none [0x9D] .popfd
  | pusha : Row (some .w16) none [0x60] .pusha
  | pushad : Row (some .w32) none [0x60] .pushad
  | pushf : Row (some .w16) none [0x9C] .pushf
  | pushfd : Row (some .w32) none [0x9C] .pushfd
  | pushImm8 (sz : OpSize) (ib : Byte) : Row (some sz) none [0x6A, ib] (.pushImm8 sz ib)
  | pushImm16 (iw : Word) : Row (some .w16) none (0x68 :: bytes16 iw) (.pushImm16 iw)
  | pushImm32 (id : Dword) : Row (some .w32) none (0x68 :: bytes32 id) (.pushImm32 id)

/-! ## The two tables of MMX rows -/

/-- A table that matches on the number of a byte names the byte. -/
theorem eq_ofNat_of_toNat_eq {w n : Nat} {b : BitVec w} (h : b.toNat = n) : b = BitVec.ofNat w n := by
  rw [← h, BitVec.ofNat_toNat, BitVec.setWidth_eq]

/-- What the rows `0F op /r` share: the operands, and how they are encoded. -/
theorem mmxRow_spec {op : Byte} {mk : MReg → MmSrc → Instr} (h : mmxRow op = some mk) (dst : MReg) (src : MmSrc) :
    (mk dst src).wf = src.wf ∧ mmDest (mk dst src) = some dst ∧ memOperand (mk dst src) = MmSrc.memOp src ∧
      ∀ db, encode db (mk dst src) = encodeMmxRm db op dst src := by
  unfold mmxRow at h
  split at h
  case h_45 => cases h
  all_goals
    rename_i hop
    cases h
    rw [eq_ofNat_of_toNat_eq hop]
    exact ⟨rfl, rfl, rfl, fun _ => rfl⟩

/-- What the rows `0F op /digit ib` share. -/
theorem mmxShiftRow_spec {op : Byte} {digit : BitVec 3} {mk : MReg → Byte → Instr}
    (h : mmxShiftRow op digit = some mk) (dst : MReg) (ib : Byte) :
    (op = 0x71 ∨ op = 0x72 ∨ op = 0x73) ∧ (mk dst ib).wf = true ∧ mmDest (mk dst ib) = some dst ∧
      memOperand (mk dst ib) = none ∧ ∀ db, encode db (mk dst ib) = encodeMmxShift op digit dst ib := by
  unfold mmxShiftRow at h
  split at h
  case h_9 => cases h
  all_goals
    rename_i hop hdigit
    cases h
    rw [eq_ofNat_of_toNat_eq hop, eq_ofNat_of_toNat_eq hdigit]
    exact ⟨by decide, rfl, rfl, rfl, fun _ => rfl⟩

/-! ## What a row says of its instruction -/

namespace Row

variable {sz : Option OpSize} {m : Option MemOp} {body : List Byte} {i : Instr}

theorem wf (h : Row sz m body i) : i.wf = true := by
  cases h with
  | mmxRm row dst src wf => rw [(mmxRow_spec row dst src).1, wf]
  | mmxShift row dst ib => exact (mmxShiftRow_spec row dst ib).2.1
  | popM16 m wf => exact wf
  | popM32 m wf => exact wf
  | pushRm16 src wf => exact wf
  | pushRm32 src wf => exact wf
  | _ => rfl

theorem memOperand_eq (h : Row sz m body i) : memOperand i = m := by
  cases h with
  | mmxRm row dst src wf => exact (mmxRow_spec row dst src).2.2.1
  | mmxShift row dst ib => exact (mmxShiftRow_spec row dst ib).2.2.2.1
  | _ => rfl

/-- The MMX rows are those before which 0x66 is refused. -/
theorem isMmx_eq (h : Row sz m body i) : isMmx i = sz.isNone := by
  cases h with
  | mmxRm row dst src wf => rw [isMmx, (mmxRow_spec row dst src).2.1]; rfl
  | mmxShift row dst ib => rw [isMmx, (mmxShiftRow_spec row dst ib).2.2.1]; rfl
  | _ => rfl

/-- The first byte of a row is not in the table of R82. -/
theorem head (h : Row sz m body i) : ∃ b tail, body = b :: tail ∧ prefixKind b = none := by
  cases h with
  | popR16 r => exact ⟨_, _, rfl, by cases r <;> rfl⟩
  | popR32 r => exact ⟨_, _, rfl, by cases r <;> rfl⟩
  | pushR16 r => exact ⟨_, _, rfl, by cases r <;> rfl⟩
  | pushR32 r => exact ⟨_, _, rfl, by cases r <;> rfl⟩
  | _ => exact ⟨_, _, rfl, rfl⟩

end Row

/-- The prefixes that the encoder writes for an operand size and a memory operand. -/
def encodePrefixes (db : Bool) (sz : Option OpSize) (m : Option MemOp) : List Byte :=
  sz.elim [] (opSizePrefix db) ++ m.elim [] (MemOp.prefixes db)

/-- The encoder writes the prefixes of a row and then the row. -/
theorem Row.encode_eq {sz : Option OpSize} {m : Option MemOp} {body : List Byte} {i : Instr} (h : Row sz m body i)
    (db : Bool) : encode db i = encodePrefixes db sz m ++ body := by
  cases h with
  | mmxRm row dst src wf =>
    rw [(mmxRow_spec row dst src).2.2.2]
    cases src with
    | reg s => rfl
    | mem m => simp [encodeMmxRm, encodePrefixes, MmSrc.memOp, MmSrc.form, RmForm.bytes]
  | mmxShift row dst ib => exact (mmxShiftRow_spec row dst ib).2.2.2.2 db
  | popM16 m wf => simp [encode, encodeOpMem, encodePrefixes]
  | popM32 m wf => simp [encode, encodeOpMem, encodePrefixes]
  | pushRm16 src wf =>
    cases src <;> simp [encode, encodePushRm, encodeOpMem, encodePrefixes, RmSrc.memOp, RmSrc.form, RmForm.bytes]
  | pushRm32 src wf =>
    cases src <;> simp [encode, encodePushRm, encodeOpMem, encodePrefixes, RmSrc.memOp, RmSrc.form, RmForm.bytes]
  | _ => simp [encode, encodePrefixes]

/-- A well-formed instruction has the MMX row whose second opcode byte its encoding names. -/
theorem exists_row_mmxRm {op : Byte} {mk : MReg → MmSrc → Instr} {dst : MReg} {src : MmSrc}
    (_ : ∀ db, encode db (mk dst src) = encodeMmxRm db op dst src) (row : mmxRow op = some mk) (wf : src.wf = true) :
    ∃ sz m body, Row sz m body (mk dst src) :=
  ⟨_, _, _, .mmxRm row dst src wf⟩

/-- Every well-formed instruction has a row. -/
theorem exists_row {i : Instr} (h : i.wf = true) : ∃ sz m body, Row sz m body i := by
  cases i
  case psllwImm dst ib => exact ⟨_, _, _, .mmxShift (op := 0x71) (digit := 6) rfl dst ib⟩
  case pslldImm dst ib => exact ⟨_, _, _, .mmxShift (op := 0x72) (digit := 6) rfl dst ib⟩
  case psllqImm dst ib => exact ⟨_, _, _, .mmxShift (op := 0x73) (digit := 6) rfl dst ib⟩
  case psrawImm dst ib => exact ⟨_, _, _, .mmxShift (op := 0x71) (digit := 4) rfl dst ib⟩
  case psradImm dst ib => exact ⟨_, _, _, .mmxShift (op := 0x72) (digit := 4) rfl dst ib⟩
  case psrlwImm dst ib => exact ⟨_, _, _, .mmxShift (op := 0x71) (digit := 2) rfl dst ib⟩
  case psrldImm dst ib => exact ⟨_, _, _, .mmxShift (op := 0x72) (digit := 2) rfl dst ib⟩
  case psrlqImm dst ib => exact ⟨_, _, _, .mmxShift (op := 0x73) (digit := 2) rfl dst ib⟩
  case popM16 m => exact ⟨_, _, _, .popM16 m h⟩
  case popM32 m => exact ⟨_, _, _, .popM32 m h⟩
  case popR16 r => exact ⟨_, _, _, .popR16 r⟩
  case popR32 r => exact ⟨_, _, _, .popR32 r⟩
  case popDs sz => exact ⟨_, _, _, .popDs sz⟩
  case popEs sz => exact ⟨_, _, _, .popEs sz⟩
  case popSs sz => exact ⟨_, _, _, .popSs sz⟩
  case popFs sz => exact ⟨_, _, _, .popFs sz⟩
  case popGs sz => exact ⟨_, _, _, .popGs sz⟩
  case popa => exact ⟨_, _, _, .popa⟩
  case popad => exact ⟨_, _, _, .popad⟩
  case popf => exact ⟨_, _, _, .popf⟩
  case popfd => exact ⟨_, _, _, .popfd⟩
  case pushRm16 src => exact ⟨_, _, _, .pushRm16 src h⟩
  case pushRm32 src => exact ⟨_, _, _, .pushRm32 src h⟩
  case pushR16 r => exact ⟨_, _, _, .pushR16 r⟩
  case pushR32 r => exact ⟨_, _, _, .pushR32 r⟩
  case pushImm8 sz ib => exact ⟨_, _, _, .pushImm8 sz ib⟩
  case pushImm16 iw => exact ⟨_, _, _, .pushImm16 iw⟩
  case pushImm32 id => exact ⟨_, _, _, .pushImm32 id⟩
  case pushCs sz => exact ⟨_, _, _, .pushCs sz⟩
  case pushSs sz => exact ⟨_, _, _, .pushSs sz⟩
  case pushDs sz => exact ⟨_, _, _, .pushDs sz⟩
  case pushEs sz => exact ⟨_, _, _, .pushEs sz⟩
  case pushFs sz => exact ⟨_, _, _, .pushFs sz⟩
  case pushGs sz => exact ⟨_, _, _, .pushGs sz⟩
  case pusha => exact ⟨_, _, _, .pusha⟩
  case pushad => exact ⟨_, _, _, .pushad⟩
  case pushf => exact ⟨_, _, _, .pushf⟩
  case pushfd => exact ⟨_, _, _, .pushfd⟩
  all_goals exact exists_row_mmxRm (fun _ => rfl) rfl h

end Sys2Proof
end

section
/-! The decoder, the whole of it: it accepts exactly prefixes followed by a row that they fit (`decode_ok`), and the
statements on encoding and decoding that follow. -/

namespace Sys2Proof

open Machine

/-! ## Prefixes that fit a row (R83, R84) -/

/-- The prefixes give the operand size of a row; a row of no size admits no 0x66. -/
def Prefixes.fitsSize (db : Bool) (p : Prefixes) : Option OpSize → Prop
  | .none => p.op66 = false
  | some sz => p.opSize db = sz

/-- The prefixes give the address size and the segment override of a memory operand; without one they are absent. -/
def Prefixes.fitsOperand (db : Bool) (p : Prefixes) : Option MemOp → Prop
  | .none => p.noAddress = true
  | some m => m.addr.is32 = p.addr32 db ∧ m.seg = p.seg

theorem Prefixes.noAddress_iff {p : Prefixes} : p.noAddress = true ↔ p.addr67 = false ∧ p.seg = .none := by
  simp [Prefixes.noAddress]

/-- Prefixes are as many as the encoder writes for the row that they fit. -/
theorem Prefixes.count_eq {db : Bool} {p : Prefixes} {sz : Option OpSize} {m : Option MemOp}
    (hsz : p.fitsSize db sz) (hm : p.fitsOperand db m) : p.count = (encodePrefixes db sz m).length := by
  have hsize : (sz.elim [] (opSizePrefix db)).length = p.op66.toNat := by
    cases sz with
    | none => rw [show p.op66 = false from hsz]; rfl
    | some sz =>
      rw [← show p.opSize db = sz from hsz]
      cases h : p.op66 <;> cases db <;> simp [Prefixes.opSize, opSizePrefix, h]
  have hmem : (m.elim [] (MemOp.prefixes db)).length = p.addr67.toNat + p.seg.isSome.toNat := by
    cases m with
    | none =>
      obtain ⟨h67, hseg⟩ := Prefixes.noAddress_iff.1 hm
      simp [h67, hseg]
    | some m =>
      obtain ⟨h32, hseg⟩ := hm
      simp only [Option.elim_some, MemOp.prefixes, h32, hseg, Prefixes.addr32]
      cases p.addr67 <;> cases db <;> cases p.seg <;> rfl
  rw [encodePrefixes, List.length_append, hsize, hmem, Prefixes.count, Nat.add_assoc]

/-- What is written for an operand size is read as the size (R43). -/
theorem exists_scans_opSizePrefix (db : Bool) (sz : Option OpSize) :
    ∃ op66, Scans .none (sz.elim [] (opSizePrefix db)) ⟨op66, false, none⟩ ∧
      ∀ addr67 seg, Prefixes.fitsSize db ⟨op66, addr67, seg⟩ sz := by
  have absent : Scans .none [] ⟨false, false, none⟩ := .done _
  have present : Scans .none [0x66] ⟨true, false, none⟩ := .opSize rfl (.done _)
  rcases sz with _ | _ | _ <;> cases db
  · exact ⟨_, absent, fun _ _ => rfl⟩
  · exact ⟨_, absent, fun _ _ => rfl⟩
  · exact ⟨_, absent, fun _ _ => rfl⟩
  · exact ⟨_, present, fun _ _ => rfl⟩
  · exact ⟨_, present, fun _ _ => rfl⟩
  · exact ⟨_, absent, fun _ _ => rfl⟩

/-- The prefixes of a memory operand are read as ones that give its address size and its override (R44, R84). -/
theorem exists_scans_memOpPrefixes (db op66 : Bool) (m : Option MemOp) :
    ∃ addr67 seg, Scans ⟨op66, false, none⟩ (m.elim [] (MemOp.prefixes db)) ⟨op66, addr67, seg⟩ ∧
      Prefixes.fitsOperand db ⟨op66, addr67, seg⟩ m := by
  cases m with
  | none => exact ⟨_, _, .done _, rfl⟩
  | some m =>
    obtain ⟨seg, addr⟩ := m
    have hbytes : MemOp.prefixes db ⟨seg, addr⟩ =
        (if addr.is32 = db then [] else [0x67]) ++ seg.elim [] fun S => [S.overrideByte] := by
      cases seg <;> rfl
    have override : ∀ addr67, Scans ⟨op66, addr67, none⟩ (seg.elim [] fun S => [S.overrideByte]) ⟨op66, addr67, seg⟩ := by
      intro addr67
      cases seg with
      | none => exact .done _
      | some S => exact .segment S rfl (.done _)
    rw [Option.elim_some, hbytes]
    by_cases hsize : addr.is32 = db
    · rw [if_pos hsize]
      exact ⟨false, seg, override false, by simp [hsize, Prefixes.addr32], rfl⟩
    · rw [if_neg hsize]
      exact ⟨true, seg, .addrSize rfl (override true), by cases db <;> simpa [Prefixes.addr32] using hsize, rfl⟩

theorem Scans.append {p q r : Prefixes} {ps qs : List Byte} (h : Scans p ps q) (h' : Scans q qs r) :
    Scans p (ps ++ qs) r := by
  induction h with
  | done p => exact h'
  | opSize free _ ih => exact .opSize free (ih h')
  | addrSize free _ ih => exact .addrSize free (ih h')
  | segment S free _ ih => exact .segment S free (ih h')

/-- What the encoder writes before a row is read as prefixes that fit the row. -/
theorem exists_scans_encodePrefixes (db : Bool) (sz : Option OpSize) (m : Option MemOp) :
    ∃ p, Scans .none (encodePrefixes db sz m) p ∧ p.fitsSize db sz ∧ p.fitsOperand db m := by
  obtain ⟨op66, hs, hsz⟩ := exists_scans_opSizePrefix db sz
  obtain ⟨addr67, seg, hs', hm⟩ := exists_scans_memOpPrefixes db op66 m
  exact ⟨_, hs.append hs', hsz _ _, hm⟩

/-! ## Each kind of row is read exactly where it fits -/

section
variable {db : Bool} {p : Prefixes} {bs rest : List Byte} {i : Instr}

theorem decodeFixed_ok {j : Instr} : decodeFixed p j bs = .ok (i, rest) ↔ p.noAddress = true ∧ j = i ∧ bs = rest := by
  unfold decodeFixed
  split
  · simp [*]
  · simp [*]

/-- The operand of an MMX row has the encoding that its form has under the address size. -/
theorem MmSrc.form_fits {src : MmSrc} (hwf : src.wf = true) (hm : p.fitsOperand db (MmSrc.memOp src)) :
    src.form.fits (p.addr32 db) := by
  cases src with
  | reg r => trivial
  | mem m => exact ⟨hwf, hm.1⟩

theorem RmSrc.form_fits {src : RmSrc} (hwf : src.wf = true) (hm : p.fitsOperand db (RmSrc.memOp src)) :
    src.form.fits (p.addr32 db) := by
  cases src with
  | reg r => trivial
  | mem m => exact ⟨hwf, hm.1⟩

theorem decodeMmxRm_ok {mk : MReg → MmSrc → Instr} :
    decodeMmxRm db p mk bs = .ok (i, rest) ↔
      p.op66 = false ∧ ∃ dst src, src.wf = true ∧ p.fitsOperand db (MmSrc.memOp src) ∧ i = mk dst src ∧
        bs = src.form.bytes dst.toBits ++ rest := by
  constructor
  · intro h
    obtain ⟨⟨m, rm, tail⟩, hrm, h⟩ := read_bind_ok.1 h
    obtain ⟨hfit, hbs⟩ := decodeModRM_ok hrm
    simp only at h
    split at h
    · cases h
    · rename_i h66
      refine ⟨by simpa using h66, MReg.ofBits (regField m), ?_⟩
      rw [MReg.toBits_ofBits]
      cases rm with
      | reg n =>
        obtain ⟨hna, rfl, rfl⟩ := decodeFixed_ok.1 h
        exact ⟨.reg (MReg.ofBits n), rfl, hna, rfl, by rw [MmSrc.form, MReg.toBits_ofBits, hbs]⟩
      | mem a =>
        cases h
        exact ⟨.mem ⟨p.seg, a⟩, hfit.1, ⟨hfit.2, rfl⟩, rfl, hbs⟩
  · rintro ⟨h66, dst, src, hwf, hm, rfl, rfl⟩
    obtain ⟨m, hreg, hrm⟩ := decodeModRM_bytes (MmSrc.form_fits hwf hm) dst.toBits rest
    refine read_bind_ok.2 ⟨_, hrm, ?_⟩
    simp only [h66, Bool.false_eq_true, if_false, hreg, MReg.ofBits_toBits]
    cases src with
    | reg r => exact decodeFixed_ok.2 ⟨hm, by rw [MReg.ofBits_toBits], rfl⟩
    | mem m => simp only [MmSrc.form, ← hm.2]

theorem decodeMmxShift_noRow {op m : Byte} (hrow : mmxShiftRow op (regField m) = none) :
    decodeMmxShift p op (m :: bs) = .error (.noGroupRow op m) := by
  simp only [decodeMmxShift, take8_cons, read_ok_bind, hrow]

theorem decodeMmxShift_memory {op m : Byte} (hmod : modField m ≠ 3) :
    decodeMmxShift p op (m :: bs) = .error (.noGroupRow op m) := by
  cases hrow : mmxShiftRow op (regField m) with
  | none => exact decodeMmxShift_noRow hrow
  | some mk =>
    simp only [decodeMmxShift, take8_cons, read_ok_bind, hrow, if_neg hmod]

theorem decodeMmxShift_row {op m : Byte} {mk : MReg → Byte → Instr} (hrow : mmxShiftRow op (regField m) = some mk)
    (hmod : modField m = 3) :
    decodeMmxShift p op (m :: bs) = (take8 bs >>= fun x =>
      if p.op66 then .error .prefixNotAdmitted else decodeFixed p (mk (MReg.ofBits (rmField m)) x.1) x.2) := by
  simp only [decodeMmxShift, take8_cons, read_ok_bind, hrow, if_pos hmod]

theorem decodeMmxShift_ok {op : Byte} :
    decodeMmxShift p op bs = .ok (i, rest) ↔
      p.op66 = false ∧ p.noAddress = true ∧ ∃ digit mk dst ib, mmxShiftRow op digit = some mk ∧ i = mk dst ib ∧
        bs = fieldByte 3 digit dst.toBits :: ib :: rest := by
  constructor
  · intro h
    obtain ⟨⟨m, tail⟩, hm, -⟩ := read_bind_ok.1 h
    obtain rfl := take8_ok.1 hm
    by_cases hmod : modField m = 3
    · cases hrow : mmxShiftRow op (regField m) with
      | none => rw [decodeMmxShift_noRow hrow] at h; cases h
      | some mk =>
        rw [decodeMmxShift_row hrow hmod] at h
        obtain ⟨⟨ib, tail'⟩, hib, h⟩ := read_bind_ok.1 h
        obtain rfl := take8_ok.1 hib
        split at h
        · cases h
        · rename_i h66
          obtain ⟨hna, rfl, rfl⟩ := decodeFixed_ok.1 h
          refine ⟨by simpa using h66, hna, _, mk, _, ib, hrow, rfl, ?_⟩
          rw [MReg.toBits_ofBits, ← hmod, fieldByte_fields]
    · rw [decodeMmxShift_memory hmod] at h
      cases h
  · rintro ⟨h66, hna, digit, mk, dst, ib, hrow, rfl, rfl⟩
    rw [decodeMmxShift_row (by rwa [regField_fieldByte]) (modField_fieldByte ..), rmField_fieldByte, MReg.ofBits_toBits]
    refine read_bind_ok.2 ⟨_, rfl, ?_⟩
    simp only [h66, Bool.false_eq_true, if_false]
    exact decodeFixed_ok.2 ⟨hna, rfl, rfl⟩

/-- POP m of an operand size. -/
def Instr.popM (sz : OpSize) (m : MemOp) : Instr :=
  match sz with
  | .w16 => .popM16 m
  | .w32 => .popM32 m

/-- PUSH r/m of an operand size. -/
def Instr.pushRm (sz : OpSize) (src : RmSrc) : Instr :=
  match sz with
  | .w16 => .pushRm16 src
  | .w32 => .pushRm32 src

theorem decodePopM_ok :
    decodePopM db p bs = .ok (i, rest) ↔
      ∃ m, m.wf = true ∧ p.fitsOperand db (some m) ∧ i = .popM (p.opSize db) m ∧ bs = m.addr.modrmBytes 0 ++ rest := by
  constructor
  · intro h
    obtain ⟨⟨b, rm, tail⟩, hrm, h⟩ := read_bind_ok.1 h
    obtain ⟨hfit, hbs⟩ := decodeModRM_ok hrm
    cases rm with
    | reg n => cases h
    | mem a =>
      simp only at h
      split at h
      · rename_i hdigit
        rw [hdigit] at hbs
        refine ⟨⟨p.seg, a⟩, hfit.1, ⟨hfit.2, rfl⟩, ?_⟩
        split at h <;> rename_i hsz <;> cases h <;> exact ⟨by rw [hsz]; rfl, hbs⟩
      · cases h
  · rintro ⟨m, hwf, hm, rfl, rfl⟩
    obtain ⟨b, hreg, hrm⟩ := decodeModRM_bytes (rm := .mem m.addr) ⟨hwf, hm.1⟩ 0 rest
    refine read_bind_ok.2 ⟨_, hrm, ?_⟩
    simp only [hreg, if_true, ← hm.2]
    cases p.opSize db <;> rfl

theorem decodePushRm_ok :
    decodePushRm db p bs = .ok (i, rest) ↔
      ∃ src, src.wf = true ∧ p.fitsOperand db (RmSrc.memOp src) ∧ i = .pushRm (p.opSize db) src ∧
        bs = src.form.bytes 6 ++ rest := by
  constructor
  · intro h
    obtain ⟨⟨b, rm, tail⟩, hrm, h⟩ := read_bind_ok.1 h
    obtain ⟨hfit, hbs⟩ := decodeModRM_ok hrm
    simp only at h
    split at h
    · rename_i hdigit
      rw [hdigit] at hbs
      cases rm with
      | reg n =>
        refine ⟨.reg (Reg.ofBits n), rfl, ?_⟩
        rw [RmSrc.form, Reg.toBits_ofBits]
        split at h
        case h_1 hr hsz =>
          cases hr
          obtain ⟨hna, rfl, rfl⟩ := decodeFixed_ok.1 h
          exact ⟨hna, by rw [hsz]; rfl, hbs⟩
        case h_2 hr hsz =>
          cases hr
          obtain ⟨hna, rfl, rfl⟩ := decodeFixed_ok.1 h
          exact ⟨hna, by rw [hsz]; rfl, hbs⟩
        case h_3 hr _ => cases hr
        case h_4 hr _ => cases hr
      | mem a =>
        refine ⟨.mem ⟨p.seg, a⟩, hfit.1, ⟨hfit.2, rfl⟩, ?_⟩
        split at h
        case h_1 hr _ => cases hr
        case h_2 hr _ => cases hr
        case h_3 hr hsz =>
          cases hr
          cases h
          exact ⟨by rw [hsz]; rfl, hbs⟩
        case h_4 hr hsz =>
          cases hr
          cases h
          exact ⟨by rw [hsz]; rfl, hbs⟩
    · cases h
  · rintro ⟨src, hwf, hm, rfl, rfl⟩
    obtain ⟨b, hreg, hrm⟩ := decodeModRM_bytes (RmSrc.form_fits hwf hm) 6 rest
    refine read_bind_ok.2 ⟨_, hrm, ?_⟩
    simp only [hreg, if_true]
    cases src with
    | reg r =>
      cases p.opSize db <;> exact decodeFixed_ok.2 ⟨hm, by rw [Reg.ofBits_toBits]; rfl, rfl⟩
    | mem m =>
      simp only [RmSrc.form, ← hm.2]
      cases p.opSize db <;> rfl

end

end Sys2Proof
end

section
/-! The decoder, opcodes: what follows the prefixes is a row that they fit, and nothing else. -/

namespace Sys2Proof

open Machine

/-! ## Opcode bytes -/

/-- The instruction that the bytes after the prefixes `p` encode. -/
def decodeOpcode (db : Bool) (p : Prefixes) (bs : List Byte) : Except DecodeError (Instr × List Byte) :=
  take8 bs >>= fun x =>
    if x.1 = 0x0F then take8 x.2 >>= fun y => decode0F db p y.1 y.2 else decode1 db p x.1 x.2

/-- Decoding is the scan of the prefixes and then the opcode. -/
theorem decode_eq (db : Bool) (bs : List Byte) :
    decode db bs = (scanPrefixes .none bs >>= fun x => decodeOpcode db x.1 x.2) := rfl

section
variable {db : Bool} {p : Prefixes} (bs : List Byte)

theorem decode0F_mmxRm {op : Byte} {mk : MReg → MmSrc → Instr} (row : mmxRow op = some mk) :
    decode0F db p op bs = decodeMmxRm db p mk bs := by
  simp only [decode0F, row]

theorem decode0F_mmxShift {op : Byte} (hop : op = 0x71 ∨ op = 0x72 ∨ op = 0x73) :
    decode0F db p op bs = decodeMmxShift p op bs := by
  rcases hop with rfl | rfl | rfl <;> rfl

theorem decodeOpcode_plusR {hi : BitVec 5} (hhi : hi = 0x0A ∨ hi = 0x0B) (r : Reg) :
    decodeOpcode db p (plusRByte hi r :: bs) = decodePlusR db p (plusRByte hi r) bs := by
  rcases hhi with rfl | rfl <;> cases r <;> rfl

theorem decodePlusR_push (r : Reg) :
    decodePlusR db p (plusRByte 0x0A r) bs =
      match p.opSize db with
      | .w16 => decodeFixed p (.pushR16 r) bs
      | .w32 => decodeFixed p (.pushR32 r) bs := by
  cases r <;> cases h : p.opSize db <;> simp only [decodePlusR, h] <;> rfl

theorem decodePlusR_pop (r : Reg) :
    decodePlusR db p (plusRByte 0x0B r) bs =
      match p.opSize db with
      | .w16 => decodeFixed p (.popR16 r) bs
      | .w32 => decodeFixed p (.popR32 r) bs := by
  cases r <;> cases h : p.opSize db <;> simp only [decodePlusR, h] <;> rfl

end

/-- An opcode of the form `50+r` or `58+r` is its high five bits and a register. -/
theorem eq_plusRByte (b : Byte) : b = plusRByte (b.extractLsb' 3 5) (Reg.ofBits (rmField b)) := by
  revert b; decide

/-! ## A row that the prefixes fit is decoded -/

theorem decodeOpcode_row {db : Bool} {p : Prefixes} {sz : Option OpSize} {m : Option MemOp} {body : List Byte}
    {i : Instr} (h : Row sz m body i) (hsz : p.fitsSize db sz) (hm : p.fitsOperand db m) (rest : List Byte) :
    decodeOpcode db p (body ++ rest) = .ok (i, rest) := by
  cases h with
  | mmxRm row dst src wf =>
    exact (decode0F_mmxRm _ row).trans (decodeMmxRm_ok.2 ⟨hsz, dst, src, wf, hm, rfl, rfl⟩)
  | mmxShift row dst ib =>
    exact (decode0F_mmxShift _ (mmxShiftRow_spec row dst ib).1).trans
      (decodeMmxShift_ok.2 ⟨hsz, hm, _, _, dst, ib, row, rfl, rfl⟩)
  | popM16 m wf => exact decodePopM_ok.2 ⟨m, wf, hm, by rw [show p.opSize db = _ from hsz]; rfl, rfl⟩
  | popM32 m wf => exact decodePopM_ok.2 ⟨m, wf, hm, by rw [show p.opSize db = _ from hsz]; rfl, rfl⟩
  | pushRm16 src wf => exact decodePushRm_ok.2 ⟨src, wf, hm, by rw [show p.opSize db = _ from hsz]; rfl, rfl⟩
  | pushRm32 src wf => exact decodePushRm_ok.2 ⟨src, wf, hm, by rw [show p.opSize db = _ from hsz]; rfl, rfl⟩
  | popR16 r =>
    refine (decodeOpcode_plusR rest (.inr rfl) r).trans ?_
    rw [decodePlusR_pop, show p.opSize db = _ from hsz]
    exact decodeFixed_ok.2 ⟨hm, rfl, rfl⟩
  | popR32 r =>
    refine (decodeOpcode_plusR rest (.inr rfl) r).trans ?_
    rw [decodePlusR_pop, show p.opSize db = _ from hsz]
    exact decodeFixed_ok.2 ⟨hm, rfl, rfl⟩
  | pushR16 r =>
    refine (decodeOpcode_plusR rest (.inl rfl) r).trans ?_
    rw [decodePlusR_push, show p.opSize db = _ from hsz]
    exact decodeFixed_ok.2 ⟨hm, rfl, rfl⟩
  | pushR32 r =>
    refine (decodeOpcode_plusR rest (.inl rfl) r).trans ?_
    rw [decodePlusR_push, show p.opSize db = _ from hsz]
    exact decodeFixed_ok.2 ⟨hm, rfl, rfl⟩
  | pushImm16 iw =>
    have hv : decodePushImmV db p (bytes16 iw ++ rest) = .ok (.pushImm16 iw, rest) := by
      rw [decodePushImmV, show p.opSize db = _ from hsz]
      exact read_bind_ok.2 ⟨_, take16_ok.2 rfl, decodeFixed_ok.2 ⟨hm, rfl, rfl⟩⟩
    exact hv
  | pushImm32 id =>
    have hv : decodePushImmV db p (bytes32 id ++ rest) = .ok (.pushImm32 id, rest) := by
      rw [decodePushImmV, show p.opSize db = _ from hsz]
      exact read_bind_ok.2 ⟨_, take32_ok.2 rfl, decodeFixed_ok.2 ⟨hm, rfl, rfl⟩⟩
    exact hv
  | _ => exact decodeFixed_ok.2 ⟨hm, by rw [show p.opSize db = _ from hsz], rfl⟩

/-! ## What is decoded is a row that the prefixes fit -/

/-- The bytes `pre` that were read, and a beginning of the bytes `bs` that follow, are a row of `i` that the prefixes
fit; `rest` is what remains. -/
def ReadsRow (db : Bool) (p : Prefixes) (pre bs : List Byte) (i : Instr) (rest : List Byte) : Prop :=
  ∃ sz m tail, Row sz m (pre ++ tail) i ∧ p.fitsSize db sz ∧ p.fitsOperand db m ∧ bs = tail ++ rest

section
variable {db : Bool} {p : Prefixes} {pre bs rest : List Byte} {b : Byte} {i : Instr}

/-- A row that ends with its opcode, of the operand size that the prefixes give. -/
theorem readsRow_of_fixed {j : Instr} (row : Row (some (p.opSize db)) none pre j)
    (h : decodeFixed p j bs = .ok (i, rest)) : ReadsRow db p pre bs i rest := by
  obtain ⟨hna, rfl, rfl⟩ := decodeFixed_ok.1 h
  exact ⟨some _, none, [], by rwa [List.append_nil], rfl, hna, rfl⟩

theorem readsRow_of_decode0F (h : decode0F db p b bs = .ok (i, rest)) : ReadsRow db p [0x0F, b] bs i rest := by
  unfold decode0F at h
  split at h
  case h_1 mk row =>
    obtain ⟨h66, dst, src, wf, hm, rfl, rfl⟩ := decodeMmxRm_ok.1 h
    exact ⟨_, _, _, .mmxRm row dst src wf, h66, hm, rfl⟩
  case h_2 =>
    have shift : decodeMmxShift p b bs = .ok (i, rest) → ReadsRow db p [0x0F, b] bs i rest := fun h => by
      obtain ⟨h66, hna, digit, mk, dst, ib, row, rfl, rfl⟩ := decodeMmxShift_ok.1 h
      exact ⟨_, _, [_, _], .mmxShift row dst ib, h66, hna, rfl⟩
    split at h
    case h_1 => exact shift h
    case h_2 => exact shift h
    case h_3 => exact shift h
    case h_4 hb => rw [eq_ofNat_of_toNat_eq hb]; exact readsRow_of_fixed (.pushFs _) h
    case h_5 hb => rw [eq_ofNat_of_toNat_eq hb]; exact readsRow_of_fixed (.popFs _) h
    case h_6 hb => rw [eq_ofNat_of_toNat_eq hb]; exact readsRow_of_fixed (.pushGs _) h
    case h_7 hb => rw [eq_ofNat_of_toNat_eq hb]; exact readsRow_of_fixed (.popGs _) h
    case h_8 => cases h

theorem readsRow_of_decodePlusR (h : decodePlusR db p b bs = .ok (i, rest)) : ReadsRow db p [b] bs i rest := by
  rw [eq_plusRByte b]
  unfold decodePlusR at h
  split at h
  case h_1 hhi hsz =>
    rw [eq_ofNat_of_toNat_eq hhi]
    exact readsRow_of_fixed (by rw [hsz]; exact .pushR16 _) h
  case h_2 hhi hsz =>
    rw [eq_ofNat_of_toNat_eq hhi]
    exact readsRow_of_fixed (by rw [hsz]; exact .pushR32 _) h
  case h_3 hhi hsz =>
    rw [eq_ofNat_of_toNat_eq hhi]
    exact readsRow_of_fixed (by rw [hsz]; exact .popR16 _) h
  case h_4 hhi hsz =>
    rw [eq_ofNat_of_toNat_eq hhi]
    exact readsRow_of_fixed (by rw [hsz]; exact .popR32 _) h
  case h_5 => cases h

theorem readsRow_of_decodePushImmV (h : decodePushImmV db p bs = .ok (i, rest)) : ReadsRow db p [0x68] bs i rest := by
  unfold decodePushImmV at h
  split at h
  case h_1 hsz =>
    obtain ⟨⟨iw, tail⟩, hv, hend⟩ := read_bind_ok.1 h
    obtain rfl := take16_ok.1 hv
    obtain ⟨hna, rfl, rfl⟩ := decodeFixed_ok.1 hend
    exact ⟨some .w16, none, _, .pushImm16 iw, hsz, hna, rfl⟩
  case h_2 hsz =>
    obtain ⟨⟨id, tail⟩, hv, hend⟩ := read_bind_ok.1 h
    obtain rfl := take32_ok.1 hv
    obtain ⟨hna, rfl, rfl⟩ := decodeFixed_ok.1 hend
    exact ⟨some .w32, none, _, .pushImm32 id, hsz, hna, rfl⟩

theorem row_popM {m : MemOp} (wf : m.wf = true) (sz : OpSize) :
    Row (some sz) (some m) (0x8F :: m.addr.modrmBytes 0) (.popM sz m) := by
  cases sz with
  | w16 => exact .popM16 m wf
  | w32 => exact .popM32 m wf

theorem row_pushRm {src : RmSrc} (wf : src.wf = true) (sz : OpSize) :
    Row (some sz) (RmSrc.memOp src) (0xFF :: src.form.bytes 6) (.pushRm sz src) := by
  cases sz with
  | w16 => exact .pushRm16 src wf
  | w32 => exact .pushRm32 src wf

theorem readsRow_of_decode1 (h : decode1 db p b bs = .ok (i, rest)) : ReadsRow db p [b] bs i rest := by
  have sized : ∀ {pre : List Byte} {j k : Instr}, Row (some .w16) none pre j → Row (some .w32) none pre k →
      Row (some (p.opSize db)) none pre (match p.opSize db with | .w16 => j | .w32 => k) := by
    intro pre j k hj hk
    cases p.opSize db with
    | w16 => exact hj
    | w32 => exact hk
  unfold decode1 at h
  split at h
  case h_1 hb => rw [eq_ofNat_of_toNat_eq hb]; exact readsRow_of_fixed (.pushEs _) h
  case h_2 hb => rw [eq_ofNat_of_toNat_eq hb]; exact readsRow_of_fixed (.popEs _) h
  case h_3 hb => rw [eq_ofNat_of_toNat_eq hb]; exact readsRow_of_fixed (.pushCs _) h
  case h_4 hb => rw [eq_ofNat_of_toNat_eq hb]; exact readsRow_of_fixed (.pushSs _) h
  case h_5 hb => rw [eq_ofNat_of_toNat_eq hb]; exact readsRow_of_fixed (.popSs _) h
  case h_6 hb => rw [eq_ofNat_of_toNat_eq hb]; exact readsRow_of_fixed (.pushDs _) h
  case h_7 hb => rw [eq_ofNat_of_toNat_eq hb]; exact readsRow_of_fixed (.popDs _) h
  case h_8 hb => rw [eq_ofNat_of_toNat_eq hb]; exact readsRow_of_fixed (sized .pusha .pushad) h
  case h_9 hb => rw [eq_ofNat_of_toNat_eq hb]; exact readsRow_of_fixed (sized .popa .popad) h
  case h_10 hb => rw [eq_ofNat_of_toNat_eq hb]; exact readsRow_of_decodePushImmV h
  case h_11 hb =>
    obtain ⟨⟨ib, tail⟩, hib, hend⟩ := read_bind_ok.1 h
    obtain rfl := take8_ok.1 hib
    obtain ⟨hna, rfl, rfl⟩ := decodeFixed_ok.1 hend
    rw [eq_ofNat_of_toNat_eq hb]
    exact ⟨some _, none, [_], .pushImm8 _ ib, rfl, hna, rfl⟩
  case h_12 hb =>
    obtain ⟨m, wf, hm, rfl, rfl⟩ := decodePopM_ok.1 h
    rw [eq_ofNat_of_toNat_eq hb]
    exact ⟨_, _, _, row_popM wf _, rfl, hm, rfl⟩
  case h_13 hb => rw [eq_ofNat_of_toNat_eq hb]; exact readsRow_of_fixed (sized .pushf .pushfd) h
  case h_14 hb => rw [eq_ofNat_of_toNat_eq hb]; exact readsRow_of_fixed (sized .popf .popfd) h
  case h_15 hb =>
    obtain ⟨src, wf, hm, rfl, rfl⟩ := decodePushRm_ok.1 h
    rw [eq_ofNat_of_toNat_eq hb]
    exact ⟨_, _, _, row_pushRm wf _, rfl, hm, rfl⟩
  case h_16 => exact readsRow_of_decodePlusR h

theorem readsRow_of_decodeOpcode (h : decodeOpcode db p bs = .ok (i, rest)) : ReadsRow db p [] bs i rest := by
  obtain ⟨⟨b, tail⟩, hb, hop⟩ := read_bind_ok.1 h
  obtain rfl := take8_ok.1 hb
  split at hop
  case isTrue h0F =>
    obtain ⟨⟨op, tail'⟩, hb', h0F'⟩ := read_bind_ok.1 hop
    obtain rfl : tail = op :: tail' := take8_ok.1 hb'
    obtain ⟨sz, m, tail, row, hsz, hm, rfl⟩ := readsRow_of_decode0F h0F'
    exact ⟨sz, m, _, row, hsz, hm, by rw [show b = 0x0F from h0F]; rfl⟩
  case isFalse =>
    obtain ⟨sz, m, tail', row, hsz, hm, rfl⟩ := readsRow_of_decode1 hop
    exact ⟨sz, m, _, row, hsz, hm, rfl⟩

/-- The decoder accepts exactly prefixes followed by a row that they fit. -/
theorem decode_ok :
    decode db bs = .ok (i, rest) ↔
      ∃ ps p sz m body, Scans .none ps p ∧ Row sz m body i ∧ p.fitsSize db sz ∧ p.fitsOperand db m ∧
        bs = ps ++ (body ++ rest) := by
  rw [decode_eq]
  constructor
  · intro h
    obtain ⟨⟨p, tail⟩, hscan, hop⟩ := read_bind_ok.1 h
    obtain ⟨ps, -, -, rfl, -, -, hs⟩ := scanPrefixes_ok.1 hscan
    obtain ⟨sz, m, tail, row, hsz, hm, rfl⟩ := readsRow_of_decodeOpcode hop
    exact ⟨ps, p, sz, m, tail, hs, row, hsz, hm, rfl⟩
  · rintro ⟨ps, p, sz, m, body, hs, row, hsz, hm, rfl⟩
    obtain ⟨b, tail, hbody, hb⟩ := row.head
    have hscan : scanPrefixes .none (ps ++ (body ++ rest)) = .ok (p, body ++ rest) :=
      scanPrefixes_ok.2 ⟨ps, b, tail ++ rest, rfl, by rw [hbody]; rfl, hb, hs⟩
    exact read_bind_ok.2 ⟨_, hscan, decodeOpcode_row row hsz hm rest⟩

end

/-! ## The statements -/

/-- Settles O1: the encoder writes the prefixes of a row and the row, and these the decoder reads. -/
theorem decodeReadsWhatEncodeWrote : Obligations.DecodeReadsWhatEncodeWrote := by
  intro db i rest hwf
  obtain ⟨sz, m, body, row⟩ := exists_row hwf
  obtain ⟨p, hs, hsz, hm⟩ := exists_scans_encodePrefixes db sz m
  exact decode_ok.2 ⟨_, p, sz, m, body, hs, row, hsz, hm, by rw [row.encode_eq, List.append_assoc]⟩

/-- Settles O2: what is read is prefixes and a row, the row is as the encoder writes it, and prefixes that fit it are as
many as the encoder writes. -/
theorem decodedLengthIsConsumedBytes : Obligations.DecodedLengthIsConsumedBytes := by
  intro db bs rest i h
  obtain ⟨ps, p, sz, m, body, hs, row, hsz, hm, rfl⟩ := decode_ok.1 h
  refine ⟨row.wf, ps ++ body, (List.append_assoc ..).symm, ?_⟩
  have hcount : ps.length = (encodePrefixes db sz m).length := by
    rw [← Prefixes.count_eq hsz hm, hs.length_eq, show Prefixes.none.count = 0 from rfl, Nat.zero_add]
  rw [Instr.length, row.encode_eq, List.length_append, List.length_append, hcount]

/-- The prefixes before a row are the beginning of the bytes that are prefixes. -/
theorem takeWhile_prefixes {ps body rest : List Byte} {p q : Prefixes} {sz : Option OpSize} {m : Option MemOp}
    {i : Instr} (hs : Scans p ps q) (row : Row sz m body i) :
    (ps ++ (body ++ rest)).takeWhile (fun b => (prefixKind b).isSome) = ps := by
  obtain ⟨b, tail, rfl, hb⟩ := row.head
  rw [List.takeWhile_append_of_pos fun b hb => (hs.prefixKind_mem b hb).1, List.cons_append,
    List.takeWhile_cons_of_neg (by simp [hb]), List.append_nil]

/-- Settles O4: what a scan reads is told by the columns that it fills, and a row that the prefixes fit says which
columns those are. -/
theorem onlyAdmittedPrefixesDecode : Obligations.OnlyAdmittedPrefixesDecode := by
  intro db bs rest i h
  obtain ⟨ps, p, sz, m, body, hs, row, hsz, hm, rfl⟩ := decode_ok.1 h
  rw [takeWhile_prefixes hs row]
  refine ⟨fun b hb => (hs.prefixKind_mem b hb).2, fun hmmx hmem => ?_, fun hnone b hb => ?_, hs.nodup,
    fun m' hm' S => ?_⟩
  · rw [row.isMmx_eq, Option.isNone_iff_eq_none] at hmmx
    subst hmmx
    have h66 : p.op66 = true := hs.op66_iff.2 (.inr hmem)
    exact Bool.noConfusion (h66.symm.trans hsz)
  · obtain rfl : m = none := row.memOperand_eq.symm.trans hnone
    obtain ⟨h67, hseg⟩ := Prefixes.noAddress_iff.1 hm
    rcases hs.mem_cases b hb with rfl | rfl | ⟨S, rfl⟩
    · rfl
    · exact Bool.noConfusion ((hs.addr67_iff.2 (.inr hb)).symm.trans h67)
    · exact (nomatch ((hs.seg_iff S).2 (.inr hb)).symm.trans hseg)
  · obtain rfl : m = some m' := row.memOperand_eq.symm.trans hm'
    rw [hm.2, hs.seg_iff S]
    exact or_iff_right nofun

/-- Settles O5: the second opcode byte leads to the shift groups, where a memory form and a digit without a row are
refused. -/
theorem shiftGroupsWithoutRowRefused : Obligations.ShiftGroupsWithoutRowRefused := by
  intro db op m rest hop hm
  have hdecode : decode db (0x0F :: op :: m :: rest) = decodeMmxShift .none op (m :: rest) :=
    decode0F_mmxShift (p := .none) (m :: rest) hop
  rw [hdecode]
  rcases hm with hmod | hdigit | ⟨rfl, hdigit⟩
  · exact decodeMmxShift_memory hmod
  · refine decodeMmxShift_noRow ?_
    revert hdigit
    generalize regField m = digit
    rcases hop with rfl | rfl | rfl <;> revert digit <;> decide
  · exact decodeMmxShift_noRow (by rw [hdigit]; rfl)

/-- Settles O3: each word is read by running the decoder. -/
theorem writtenWordsDecode : Obligations.WrittenWordsDecode :=
  ⟨rfl, rfl, rfl, rfl, rfl, rfl, rfl, rfl, rfl, rfl, rfl, rfl, rfl, rfl⟩

end Sys2Proof
end

section
/-! What every instruction does, said once: why it can stop short of completing (`StopCause`) and what it leaves alone when
it completes (`Kept`). `exec_rule` proves both for every instruction; the statements about all instructions follow. -/

namespace Sys2Proof.Machine

/-! ## Why an access, a pop and a push can stop -/

/-- The exceptions of an access in a mode: a limit failure outside real-address mode has the code 0, in it none; paging
and the alignment check are outside real-address mode (20_memory.md R54, R57, 60_exceptions.md R366). -/
def AccessExn (m : Mode) (e : Exn) : Prop :=
  match m with
  | .real => e = .ss none ∨ e = .gp none
  | .prot | .v86 => e = .ss (some 0) ∨ e = .gp (some 0) ∨ e = .ac ∨ ∃ a c, e = .pf a c

/-- Why an access can stop: one of its exceptions, or a place that the model refuses. -/
inductive AccessStop (m : Mode) : Stop → Prop where
  | raise {e : Exn} (h : AccessExn m e) : AccessStop m (.raise e)
  | refuse (x : Refusal) : AccessStop m (.refuse x)

/-- Why a push can stop: as an access, or for lack of stack in real-address mode (49_push_pxor.md R327). -/
inductive PushStop (m : Mode) : Stop → Prop where
  | access {x : Stop} (h : AccessStop m x) : PushStop m x
  | shutdown (h : m = .real) : PushStop m .shutdown

/-- A limit failure is an exception of an access. -/
theorem accessExn_limitExn (S : SReg) (s : State) : AccessExn s.mode (limitExn S s) := by
  unfold limitExn State.zeroCode
  cases s.mode <;> split <;> simp [AccessExn]

/-- A general-protection exception with the code 0, or none in real-address mode, is an exception of an access. -/
theorem accessExn_gp (s : State) : AccessExn s.mode (.gp s.zeroCode) := by
  unfold State.zeroCode
  cases s.mode <;> simp [AccessExn]

section
variable {who : Requester} {write : Bool} {S : SReg} {off : Dword} {n : Nat} {s : State} {x : Stop}

theorem segmentCheck_stop (h : segmentCheck who write S off n s = .error x) : AccessStop s.mode x := by
  have prot : s.mode = .prot → AccessStop s.mode (.raise (.gp (some 0))) := fun hm => .raise (by simp [hm, AccessExn])
  simp only [segmentCheck] at h
  repeat' split at h
  all_goals cases h
  · exact prot ‹_›
  · exact prot ‹_›
  · exact prot ‹_›
  · exact .raise (accessExn_limitExn S s)
  · exact .raise (accessExn_gp s)
  · exact .raise (accessExn_limitExn S s)
  · exact .raise (accessExn_gp s)
  · exact .raise (accessExn_limitExn S s)

theorem alignCheck_stop {lin : Dword} (h : alignCheck lin n s = .error x) : AccessStop s.mode x := by
  unfold alignCheck at h
  split at h
  · rename_i hc
    cases h
    refine .raise ?_
    cases hm : s.mode
    · exact absurd hm hc.1
    · exact .inr (.inr (.inl rfl))
    · exact .inr (.inr (.inl rfl))
  · cases h

theorem placeCheck_stop {ps : List Nat} {m : Mode} (h : placeCheck write s ps = .error x) : AccessStop m x := by
  unfold placeCheck at h
  repeat' split at h
  all_goals cases h
  · exact .refuse _
  · exact .refuse _

theorem translateBytes_stop {lin : Dword} (h : translateBytes write s lin n = .error x) : AccessStop s.mode x := by
  obtain ⟨hm, a, c, rfl⟩ := translateBytes_error h
  refine .raise ?_
  cases hmode : s.mode
  · exact absurd hmode hm
  · exact .inr (.inr (.inr ⟨a, c, rfl⟩))
  · exact .inr (.inr (.inr ⟨a, c, rfl⟩))

theorem access_stop (h : access who write S off n s = .error x) : AccessStop s.mode x := by
  rcases access_error.1 h with h | ⟨-, h | ⟨ps, -, h | ⟨-, h⟩⟩⟩
  · exact segmentCheck_stop h
  · exact translateBytes_stop h
  · exact alignCheck_stop h
  · exact placeCheck_stop h

theorem memRead_stop (h : memRead who S off n s = .error x) : AccessStop s.mode x := by
  rcases Res.bind_error.1 h with h | ⟨_, -, h⟩
  · exact access_stop h
  · cases h

theorem memWrite_stop {v : Qword} (h : memWrite S off n v s = .error x) : AccessStop s.mode x := by
  rcases Res.bind_error.1 h with h | ⟨_, -, h⟩
  · exact access_stop h
  · cases h

end

section
variable {sz : OpSize} {s : State} {x : Stop}

theorem pop_stop (h : pop sz s = .error x) : AccessStop s.mode x := by
  rcases Res.bind_error.1 h with h | ⟨_, -, h⟩
  · exact memRead_stop h
  · cases h

theorem push_stop {v : Dword} (h : push sz v s = .error x) : PushStop s.mode x := by
  unfold push at h
  split at h
  · rename_i hc
    cases h
    exact .shutdown hc.1
  · rcases Res.bind_error.1 h with h | ⟨_, -, h⟩
    · exact .access (memWrite_stop h)
    · cases h

/-- A pop stays in its mode. -/
theorem pop_mode {v : Dword} {t : State} (h : pop sz s = .ok (v, t)) : t.mode = s.mode := by
  obtain ⟨q, -, -, rfl⟩ := pop_ok.1 h
  exact State.setSp_mode s _

/-- A push stays in its mode. -/
theorem push_mode {v : Dword} {t : State} (h : push sz v s = .ok t) : t.mode = s.mode := by
  obtain ⟨-, u, hu, rfl⟩ := push_ok.1 h
  obtain ⟨ps, -, rfl⟩ := memWrite_ok.1 hu
  simp

theorem popRegs_stop {rs : List Reg} (h : popRegs sz rs s = .error x) : AccessStop s.mode x := by
  induction rs generalizing s with
  | nil => cases h
  | cons r rs ih =>
    rcases Res.bind_error.1 h with h | ⟨⟨v, t⟩, hp, h⟩
    · exact pop_stop h
    · rw [← pop_mode hp, ← State.setRegSz_mode t sz r v]
      exact ih h

theorem pushList_stop {vs : List Dword} (h : pushList sz vs s = .error x) : PushStop s.mode x := by
  induction vs generalizing s with
  | nil => cases h
  | cons v vs ih =>
    rcases Res.bind_error.1 h with h | ⟨t, hp, h⟩
    · exact push_stop h
    · rw [← push_mode hp]
      exact ih h

theorem pushAllStart_stop (h : pushAllStart s = .error x) : PushStop s.mode x := by
  unfold pushAllStart at h
  simp only at h
  repeat' split at h
  all_goals cases h
  · exact .shutdown ‹_›
  · exact .access (.raise (by simp [AccessExn, *]))
  · exact .access (.raise (by simp [AccessExn, *]))

end

/-! ## Why a segment load can stop -/

/-- The exceptions of a segment load in protected mode; `#NP` is not that of SS (45_pop.md R212, R213). -/
def LoadExn (S : SReg) (e : Exn) : Prop :=
  ∃ c, e = .gp (some c) ∨ e = .ss (some c) ∨ (S ≠ .ss ∧ e = .np c)

theorem loadSeg_stop {S : SReg} {sel : Word} {s : State} {x : Stop} (h : loadSeg S sel s = .error x) :
    s.mode = .prot ∧ ∃ e, x = .raise e ∧ LoadExn S e := by
  have data : ∀ {dd}, S ≠ .ss → loadDataSeg dd S sel s = .error x → ∃ e, x = .raise e ∧ LoadExn S e := by
    intro dd hS h
    unfold loadDataSeg at h
    repeat' split at h
    all_goals cases h
    all_goals simp [LoadExn, hS]
  unfold loadSeg at h
  split at h
  · rename_i hm
    refine ⟨hm, ?_⟩
    split at h
    · unfold loadStackSeg at h
      repeat' split at h
      all_goals cases h
      all_goals simp [LoadExn]
    all_goals exact data (by simp) h
  · cases h
  · cases h

end Sys2Proof.Machine
end

section
/-! The rule of every instruction, continued: what it leaves alone, and the inversion lemma `exec_rule`. -/

namespace Sys2Proof.Machine

/-! ## What an instruction that completes leaves alone -/

/-- Memory of `u` against that of `s`: canonical if it was, and the program text as it was (20_memory.md R70). -/
structure MemKept (s u : State) : Prop where
  wf : Memory.wf s.mem → Memory.wf u.mem
  text : ∀ p, inRegions s.text p = true → u.mem.read p = s.mem.read p

/-- What the rule of `i` leaves alone when it turns `s` into `u`, before `pc` and `inhibit` are updated. -/
structure Kept (i : Instr) (s u : State) : Prop where
  cr0 : u.cr0 = s.cr0
  cpl : u.cpl = s.cpl
  fpuPending : u.fpuPending = s.fpuPending
  shutdown : u.shutdown = s.shutdown
  admitted : u.admitted = s.admitted
  text : u.text = s.text
  mm : mmDest i = none → u.mm = s.mm
  mem : MemKept s u
  eflags : u.eflags = s.eflags ∨
    ((i = .popf ∨ i = .popfd) ∧ ∃ sz v, u.eflags = popfFlags s.mode s.cpl sz s.eflags v)
  segs : u.segs = s.segs ∨
    ∃ S x, S ≠ .cs ∧ u.segs = s.segs.set S x ∧ (s.mode ≠ .prot ∨ S = .ss → x.hid.null = false)

theorem MemKept.of_eq {s u : State} (h : u.mem = s.mem) : MemKept s u :=
  ⟨fun hw => by rwa [h], fun p _ => by rw [h]⟩

theorem MemKept.trans {s t u : State} (h : MemKept s t) (htext : t.text = s.text) (h' : MemKept t u) : MemKept s u :=
  ⟨fun hw => h'.wf (h.wf hw), fun p hp => (h'.text p (by rwa [htext])).trans (h.text p hp)⟩

theorem memKept_memWrite {S : SReg} {off : Dword} {n : Nat} {v : Qword} {s u : State}
    (h : memWrite S off n v s = .ok u) : MemKept s u :=
  ⟨memWrite_wf h, fun _ hp => memWrite_text h hp⟩

theorem memKept_push {sz : OpSize} {v : Dword} {s u : State} (h : push sz v s = .ok u) : MemKept s u := by
  obtain ⟨-, t, ht, rfl⟩ := push_ok.1 h
  obtain ⟨ps, -, ht'⟩ := memWrite_ok.1 ht
  exact (memKept_memWrite ht).trans (by rw [ht']; rfl) (.of_eq (State.setSp_mem t _))

theorem memKept_pushList {sz : OpSize} {vs : List Dword} {s u : State} (h : pushList sz vs s = .ok u) :
    MemKept s u := by
  induction vs generalizing s with
  | nil => cases h; exact .of_eq rfl
  | cons v vs ih =>
    obtain ⟨t, ht, h⟩ := Res.bind_ok.1 h
    exact (memKept_push ht).trans (by rw [push_frame ht]) (ih h)

theorem memKept_popMem {sz : OpSize} {m : MemOp} {s u : State} (h : popMem sz m s = .ok u) : MemKept s u := by
  obtain ⟨⟨v, t⟩, hp, h⟩ := Res.bind_ok.1 h
  obtain ⟨q, -, -, rfl⟩ := pop_ok.1 hp
  obtain ⟨w, hw, h⟩ := Res.bind_ok.1 h
  have hkept : MemKept s w :=
    .trans (.of_eq (State.setSp_mem s _)) (State.setSp_text s _) (memKept_memWrite hw)
  cases h
  split
  · exact ⟨hkept.wf, hkept.text⟩
  · exact hkept

/-- A rule that changes registers, memory and the count of free values alone. -/
theorem Kept.of_frame {i : Instr} {s u : State}
    (h : u = { s with regs := u.regs, mem := u.mem, freeCount := u.freeCount }) (hmem : MemKept s u) : Kept i s u := by
  refine ⟨?_, ?_, ?_, ?_, ?_, ?_, fun _ => ?_, hmem, .inl ?_, .inl ?_⟩
  all_goals rw [h]

/-- A rule that changes registers alone. -/
theorem Kept.of_regs {i : Instr} {s u : State} (h : u = { s with regs := u.regs }) : Kept i s u :=
  .of_frame (by rw [h]) (.of_eq (by rw [h]))

/-- A rule that changes an MMX register alone. -/
theorem Kept.of_setMm {i : Instr} {s : State} {dst : MReg} {v : Qword} (h : mmDest i ≠ none) :
    Kept i s (s.setMm dst v) :=
  ⟨rfl, rfl, rfl, rfl, rfl, rfl, fun hnone => absurd hnone h, .of_eq rfl, .inl rfl, .inl rfl⟩

/-- A pop and a segment load change the registers and the segment register. -/
theorem Kept.of_popSeg {i : Instr} {sz : OpSize} {S : SReg} (hS : S ≠ .cs) {s u : State} (h : popSeg sz S s = .ok u) :
    Kept i s u := by
  obtain ⟨x, rfl, hx⟩ := popSeg_frame h
  refine ⟨?_, ?_, ?_, ?_, ?_, ?_, fun _ => ?_, .of_eq ?_, .inl ?_, .inr ⟨S, x, hS, ?_, hx⟩⟩
  all_goals simp

/-- Counting the use of a free value changes nothing that is kept. -/
theorem Kept.useFree {i : Instr} {s u : State} (h : Kept i s u) : Kept i s u.useFree :=
  ⟨h.cr0, h.cpl, h.fpuPending, h.shutdown, h.admitted, h.text, h.mm, ⟨h.mem.wf, h.mem.text⟩, h.eflags, h.segs⟩

/-! ## Why an instruction can stop -/

/-- Is `i` a POP into DS, ES, FS or GS? -/
def IsPopData (i : Instr) : Prop := ∃ sz, i = .popDs sz ∨ i = .popEs sz ∨ i = .popFs sz ∨ i = .popGs sz

/-- Why `i` can stop in `s` short of completing (60_exceptions.md R361, R362, R383). -/
inductive StopCause (i : Instr) (s : State) : Stop → Prop where
  /-- The model refuses. -/
  | refuse (x : Refusal) : StopCause i s (.refuse x)
  /-- A push has no stack. -/
  | shutdown (hm : s.mode = .real) : StopCause i s .shutdown
  /-- An MMX instruction is not available. -/
  | unavailable {e : Exn} (hi : isMmx i = true) (he : e = .ud ∨ e = .nm ∨ e = .mf) : StopCause i s (.raise e)
  /-- An access raises; an MMX instruction makes one for its memory operand alone. -/
  | access {e : Exn} (hi : isMmx i = true → memOperand i ≠ none) (he : AccessExn s.mode e) : StopCause i s (.raise e)
  /-- A segment load raises. -/
  | load {e : Exn} {S : SReg} (hi : mmDest i = none) (hm : s.mode = .prot) (he : LoadExn S e)
      (hS : S ≠ .ss → IsPopData i) : StopCause i s (.raise e)

section
variable {i : Instr} {s : State} {x : Stop}

theorem isMmx_false (h : mmDest i = none) : isMmx i = false := by rw [isMmx, h]; rfl

theorem StopCause.of_access (hi : isMmx i = true → memOperand i ≠ none) (h : AccessStop s.mode x) : StopCause i s x := by
  cases h with
  | raise he => exact .access hi he
  | refuse x => exact .refuse x

theorem StopCause.of_push (hi : mmDest i = none) (h : PushStop s.mode x) : StopCause i s x := by
  cases h with
  | access h => exact .of_access (fun hmmx => absurd hmmx (by simp [isMmx_false hi])) h
  | shutdown hm => exact .shutdown hm

theorem StopCause.of_integer_access (hi : mmDest i = none) (h : AccessStop s.mode x) : StopCause i s x :=
  .of_push hi (.access h)

theorem StopCause.of_mmxEnabled (hi : isMmx i = true) (h : mmxEnabled s = .error x) : StopCause i s x := by
  unfold mmxEnabled at h
  repeat' split at h
  all_goals cases h
  · exact .unavailable hi (.inl rfl)
  · exact .unavailable hi (.inr (.inl rfl))

theorem StopCause.of_mmxSource {src : MmSrc} {n : Nat} (hi : isMmx i = true) (hm : memOperand i = MmSrc.memOp src)
    (h : mmxSource src n s = .error x) : StopCause i s x := by
  have operand : ∀ {y}, mmxOperand src n s = .error y → StopCause i s y := by
    intro y hy
    cases src with
    | reg r => cases hy
    | mem m => exact .of_access (fun _ => by rw [hm]; nofun) (memRead_stop hy)
  rcases Res.bind_error.1 h with h | ⟨_, -, h⟩
  · exact .of_mmxEnabled hi h
  · split at h
    · exact operand h
    · rename_i hy
      cases h
      split
      · exact .unavailable hi (.inr (.inr rfl))
      · exact operand hy
    all_goals cases h; exact .unavailable hi (.inr (.inr rfl))

theorem StopCause.of_popSeg {sz : OpSize} {S : SReg} (hi : mmDest i = none) (hS : S ≠ .ss → IsPopData i)
    (h : popSeg sz S s = .error x) : StopCause i s x := by
  rcases Res.bind_error.1 h with h | ⟨⟨v, t⟩, hp, h⟩
  · exact .of_integer_access hi (pop_stop h)
  · obtain ⟨hm, e, rfl, he⟩ := loadSeg_stop h
    exact .load hi (by rwa [← pop_mode hp]) he hS

end

/-! ## The rule of every instruction -/

/-- The interrupt inhibit that an instruction leaves when it completes (10_state.md R38). -/
def inhibitAfter (i : Instr) (s : State) : Bool :=
  match i with
  | .popSs _ => popSsInhibit s
  | _ => false

theorem inhibitAfter_plain {i : Instr} (h : ∀ sz, i ≠ .popSs sz) (s : State) : inhibitAfter i s = false := by
  cases i <;> first | rfl | exact absurd rfl (h _)

/-- `r` is what the rule of `i` answers in `s`. -/
structure Rule (i : Instr) (s : State) (r : Res State) : Prop where
  form : exec i s = settle i (inhibitAfter i s) s r
  kept : ∀ u, r = .ok u → Kept i s u
  stop : ∀ x, r = .error x → StopCause i s x

/-- Every instruction is the settling of a rule, whichever of the thirteen forms it has. -/
theorem exec_rule (i : Instr) (s : State) : ∃ r, Rule i s r := by
  cases exec_form i s with
  | mmx dst src n f dest operand form plain =>
    have hi : isMmx i = true := by rw [isMmx, dest]; rfl
    refine ⟨_, by rw [form, inhibitAfter_plain plain.1]; rfl, fun u hu => ?_, fun x hx => ?_⟩
    · obtain ⟨v, -, hu⟩ := Res.bind_ok.1 hu
      cases hu
      exact .of_setMm (by simp [dest])
    · rcases Res.bind_error.1 hx with hx | ⟨_, -, hx⟩
      · exact .of_mmxSource hi operand hx
      · cases hx
  | mmxImm dst c f dest operand form plain =>
    have hi : isMmx i = true := by rw [isMmx, dest]; rfl
    refine ⟨_, by rw [form, inhibitAfter_plain plain.1]; rfl, fun u hu => ?_, fun x hx => ?_⟩
    · obtain ⟨_, -, hu⟩ := Res.bind_ok.1 hu
      split at hu <;> cases hu
      exact .of_setMm (by simp [dest])
    · rcases Res.bind_error.1 hx with hx | ⟨_, -, hx⟩
      · exact .of_mmxEnabled hi hx
      · split at hx <;> cases hx
        exact .unavailable hi (.inr (.inr rfl))
  | popReg sz r dest form plain =>
    refine ⟨_, by rw [form, inhibitAfter_plain plain.1], fun u hu => .of_regs (popReg_frame hu), fun x hx => ?_⟩
    rcases Res.bind_error.1 hx with hx | ⟨_, -, hx⟩
    · exact .of_integer_access dest (pop_stop hx)
    · cases hx
  | popMem sz m dest form plain =>
    refine ⟨_, by rw [form, inhibitAfter_plain plain.1], fun u hu => ?_, fun x hx => ?_⟩
    · exact .of_frame (by rw [popMem_frame hu]) (memKept_popMem hu)
    · rcases Res.bind_error.1 hx with hx | ⟨⟨v, t⟩, hp, hx⟩
      · exact .of_integer_access dest (pop_stop hx)
      · rcases Res.bind_error.1 hx with hx | ⟨_, -, hx⟩
        · exact .of_integer_access dest (by rw [← pop_mode hp]; exact memWrite_stop hx)
        · cases hx
  | popSeg sz S data dest which form plain =>
    exact ⟨_, by rw [form, inhibitAfter_plain plain.1], fun u hu => .of_popSeg data.2 hu,
      fun x hx => .of_popSeg dest (fun _ => ⟨sz, which⟩) hx⟩
  | popSs sz which form =>
    subst which
    refine ⟨_, form, fun u hu => ?_, fun x hx => ?_⟩
    · obtain ⟨t, ht, hu⟩ := Res.bind_ok.1 hu
      have hkept := Kept.of_popSeg (i := .popSs sz) (by simp) ht
      cases hu
      unfold popSsCount
      split
      · exact hkept.useFree
      · exact hkept
    · rcases Res.bind_error.1 hx with hx | ⟨_, -, hx⟩
      · exact .of_popSeg rfl (fun h => absurd rfl h) hx
      · cases hx
  | popAll sz dest form plain =>
    refine ⟨_, by rw [form, inhibitAfter_plain plain.1], fun u hu => .of_regs (popAll_frame hu), fun x hx => ?_⟩
    rcases Res.bind_error.1 hx with hx | ⟨t, ht, hx⟩
    · exact .of_integer_access dest (popRegs_stop hx)
    · have hmode : t.mode = s.mode := by rw [popRegs_frame ht]; rfl
      exact .of_integer_access dest (by rw [← hmode, ← State.setSp_mode t]; exact popRegs_stop hx)
  | popFlags sz which form =>
    have dest : mmDest i = none := by rcases which with rfl | rfl <;> rfl
    have plain : ∀ sz, i ≠ .popSs sz := by rcases which with rfl | rfl <;> nofun
    refine ⟨_, by rw [form, inhibitAfter_plain plain], fun u hu => ?_, fun x hx => ?_⟩
    · obtain ⟨-, q, -, rfl⟩ := popFlags_ok.1 hu
      refine ⟨?_, ?_, ?_, ?_, ?_, ?_, fun _ => ?_, .of_eq ?_, .inr ⟨which, sz, _, rfl⟩, .inl ?_⟩
      all_goals simp
    · unfold popFlags at hx
      split at hx
      · rename_i hc
        cases hx
        exact .of_integer_access dest (.raise (by simp [AccessExn, hc.1]))
      · rcases Res.bind_error.1 hx with hx | ⟨_, -, hx⟩
        · exact .of_integer_access dest (pop_stop hx)
        · cases hx
  | pushRm sz src dest operand form plain =>
    refine ⟨_, by rw [form, inhibitAfter_plain plain.1], fun u hu => ?_, fun x hx => ?_⟩
    · obtain ⟨v, -, hu⟩ := Res.bind_ok.1 hu
      exact .of_frame (by rw [push_frame hu]) (memKept_push hu)
    · rcases Res.bind_error.1 hx with hx | ⟨_, -, hx⟩
      · cases src with
        | reg r => cases hx
        | mem m =>
          rcases Res.bind_error.1 hx with hx | ⟨_, -, hx⟩
          · exact .of_integer_access dest (memRead_stop hx)
          · cases hx
      · exact .of_push dest (push_stop hx)
  | push sz v dest form plain =>
    exact ⟨_, by rw [form, inhibitAfter_plain plain.1],
      fun u hu => .of_frame (by rw [push_frame hu]) (memKept_push hu), fun x hx => .of_push dest (push_stop hx)⟩
  | pushSeg sz S dest form plain =>
    refine ⟨_, by rw [form, inhibitAfter_plain plain.1], fun u hu => ?_, fun x hx => ?_⟩
    · obtain ⟨t, ht, hu⟩ := Res.bind_ok.1 hu
      have hkept : Kept i s t := .of_frame (by rw [push_frame ht]) (memKept_push ht)
      cases hu
      cases sz with
      | w16 => exact hkept
      | w32 => exact hkept.useFree
    · rcases Res.bind_error.1 hx with hx | ⟨_, -, hx⟩
      · exact .of_push dest (push_stop hx)
      · cases hx
  | pushAll sz dest form plain =>
    refine ⟨_, by rw [form, inhibitAfter_plain plain.1], fun u hu => ?_, fun x hx => ?_⟩
    · have hpushes := (pushAll_ok.1 hu).2
      exact .of_frame (by rw [pushList_frame hpushes]) (memKept_pushList hpushes)
    · rcases Res.bind_error.1 hx with hx | ⟨_, -, hx⟩
      · exact .of_push dest (pushAllStart_stop hx)
      · exact .of_push dest (pushList_stop hx)
  | pushFlags sz dest form plain =>
    refine ⟨_, by rw [form, inhibitAfter_plain plain.1], fun u hu => ?_, fun x hx => ?_⟩
    · unfold pushFlags at hu
      split at hu
      · cases hu
      · exact .of_frame (by rw [push_frame hu]) (memKept_push hu)
    · unfold pushFlags at hx
      split at hx
      · rename_i hc
        cases hx
        exact .of_integer_access dest (.raise (by simp [AccessExn, hc.1]))
      · exact .of_push dest (push_stop hx)

end Sys2Proof.Machine
end

section
/-! EFLAGS after POPF and POPFD (45_pop.md R236), bit by bit. -/

namespace Sys2Proof.Machine

section
variable (m : Mode) (cpl : BitVec 2) (sz : OpSize) (old v : Dword)

/-- A bit of EFLAGS that POPF may not modify keeps its value or is cleared. -/
theorem getLsbD_popfFlags_of_fixed {k : Nat} (hk : k < 32)
    (hmask : (popfModify m cpl (flagIOPL old) sz).getLsbD k = false) :
    (popfFlags m cpl sz old v).getLsbD k = (old.getLsbD k && !(popfClear m sz).getLsbD k) := by
  simp only [popfFlags, BitVec.getLsbD_or, BitVec.getLsbD_and, BitVec.getLsbD_not, hk, decide_true, hmask,
    Bool.false_or, Bool.true_and, Bool.and_false, Bool.or_false]

/-- A bit that POPF may neither modify nor clear keeps its value. -/
theorem getLsbD_popfFlags_of_kept {k : Nat} (hk : k < 32)
    (hmask : (popfModify m cpl (flagIOPL old) sz).getLsbD k = false) (hclear : (popfClear m sz).getLsbD k = false) :
    (popfFlags m cpl sz old v).getLsbD k = old.getLsbD k := by
  rw [getLsbD_popfFlags_of_fixed m cpl sz old v hk hmask, hclear, Bool.not_false, Bool.and_true]

/-- VM, the reserved bits, VIF and VIP are never taken from the image. -/
theorem popfModify_and_fixed (iopl : BitVec 2) : popfModify m cpl iopl sz &&& 0xFFDA802A = 0 := by
  cases m <;> cases sz <;> revert cpl iopl <;> decide

/-- VM and the reserved bits are never cleared. -/
theorem popfClear_and_fixed : popfClear m sz &&& 0xFFC2802A = 0 := by
  cases m <;> cases sz <;> decide

/-- A mask that misses a set of bits misses each of them. -/
theorem getLsbD_of_and_eq_zero {x y : Dword} (h : x &&& y = 0) {k : Nat} (hy : y.getLsbD k = true) :
    x.getLsbD k = false := by
  have hbit := congrArg (fun z => z.getLsbD k) h
  simpa [hy] using hbit

/-- VM and each reserved bit are kept (10_state.md R27). -/
theorem getLsbD_popfFlags_reserved {k : Nat} (hk : (0xFFC2802A : Dword).getLsbD k = true) :
    (popfFlags m cpl sz old v).getLsbD k = old.getLsbD k := by
  refine getLsbD_popfFlags_of_kept m cpl sz old v (BitVec.lt_of_getLsbD hk)
    (getLsbD_of_and_eq_zero (popfModify_and_fixed m cpl sz _) ?_)
    (getLsbD_of_and_eq_zero (popfClear_and_fixed m sz) hk)
  rw [show (0xFFDA802A : Dword) = 0xFFC2802A ||| 0x00180000 from rfl, BitVec.getLsbD_or, hk, Bool.true_or]

theorem flagVM_popfFlags : flagVM (popfFlags m cpl sz old v) = flagVM old :=
  getLsbD_popfFlags_reserved m cpl sz old v (k := 17) (by decide)

theorem popfFlags_and_reservedMask : popfFlags m cpl sz old v &&& reservedMask = old &&& reservedMask := by
  apply BitVec.eq_of_getLsbD_eq
  intro k _
  rw [BitVec.getLsbD_and, BitVec.getLsbD_and]
  cases hk : reservedMask.getLsbD k with
  | false => rw [Bool.and_false, Bool.and_false]
  | true =>
    rw [getLsbD_popfFlags_reserved]
    rw [show (0xFFC2802A : Dword) = reservedMask ||| 0x00020000 from rfl, BitVec.getLsbD_or, hk, Bool.true_or]

/-- IOPL is kept in virtual-8086 mode, and in protected mode above level 0. -/
theorem flagIOPL_popfFlags (h : m = .v86 ∨ (m = .prot ∧ cpl ≠ 0)) :
    flagIOPL (popfFlags m cpl sz old v) = flagIOPL old := by
  have hmask : popfModify m cpl (flagIOPL old) sz &&& 0x00003000 = 0 := by
    generalize flagIOPL old = iopl
    rcases h with rfl | ⟨rfl, h⟩ <;> cases sz <;> revert cpl iopl <;> decide
  have hclear : popfClear m sz &&& 0x00003000 = 0 := by cases m <;> cases sz <;> decide
  have hbit : ∀ k, (0x00003000 : Dword).getLsbD k = true →
      (popfFlags m cpl sz old v).getLsbD k = old.getLsbD k := fun k hk =>
    getLsbD_popfFlags_of_kept m cpl sz old v (BitVec.lt_of_getLsbD hk) (getLsbD_of_and_eq_zero hmask hk)
      (getLsbD_of_and_eq_zero hclear hk)
  apply BitVec.eq_of_getLsbD_eq
  intro k hk
  have hk01 : k = 0 ∨ k = 1 := by omega
  rcases hk01 with rfl | rfl
  · simpa [flagIOPL] using hbit 12 (by decide)
  · simpa [flagIOPL] using hbit 13 (by decide)

end

/-- Settles O50: none of the bits named is in the mask of the bits that may be modified, and VM, the reserved bits,
IOPL and IF are not in the mask of the bits that are cleared either. -/
theorem popFlagsNeverDoes : Obligations.PopFlagsNeverDoes := by
  intro m cpl sz old v
  refine ⟨flagVM_popfFlags .., popfFlags_and_reservedMask .., ?_, ?_, flagIOPL_popfFlags m cpl sz old v,
    fun hm hcpl => ?_⟩
  · rw [getLsbD_popfFlags_of_fixed m cpl sz old v (by decide)
      (getLsbD_of_and_eq_zero (popfModify_and_fixed m cpl sz _) (by decide)), Bool.and_eq_true]
    exact And.left
  · rw [getLsbD_popfFlags_of_fixed m cpl sz old v (by decide)
      (getLsbD_of_and_eq_zero (popfModify_and_fixed m cpl sz _) (by decide)), Bool.and_eq_true]
    exact And.left
  · subst hm
    refine getLsbD_popfFlags_of_kept .prot cpl sz old v (by decide) ?_ (by cases sz <;> decide)
    revert hcpl
    generalize flagIOPL old = iopl
    cases sz <;> revert cpl iopl <;> decide

end Sys2Proof.Machine
end

section
/-! What every step keeps, and what an exception undoes (60_exceptions.md R362, R383, R387). -/

namespace Sys2Proof.Machine

/-- An instruction answers a next state when it completes, or when it shuts the processor down in real-address mode. -/
theorem exec_next {i : Instr} {s t : State} (h : exec i s = .next t) :
    (∃ u, Kept i s u ∧ t = s.retire i (inhibitAfter i s) u) ∨ (s.mode = .real ∧ t = { s with shutdown := true }) := by
  obtain ⟨r, rule⟩ := exec_rule i s
  rcases settle_next.1 (rule.form.symm.trans h) with ⟨u, hu, ht⟩ | ⟨hr, ht⟩
  · exact .inl ⟨u, rule.kept u hu, ht⟩
  · cases rule.stop _ hr with
    | shutdown hm => exact .inr ⟨hm, ht⟩

/-- An instruction answers a fault when its rule raises; the state carried is the one before, `inhibit` clear. -/
theorem exec_fault {i : Instr} {s : State} {f : Fault} (h : exec i s = .fault f) :
    ∃ e, StopCause i s (.raise e) ∧ f = .exception e { s with inhibit := false } := by
  obtain ⟨r, rule⟩ := exec_rule i s
  obtain ⟨e, hr, hf⟩ := settle_fault.1 (rule.form.symm.trans h)
  exact ⟨e, rule.stop _ hr, hf⟩

/-- Where the bytes at `pc` decode, the step is the decoded instruction. -/
theorem step_of_decode {s : State} {i : Instr} {rest : List Byte} (hrun : s.shutdown = false)
    (h : decode (s.seg .cs).hid.db (fetch s) = .ok (i, rest)) : step s = exec i s := by
  simp only [step, stepState, decodeAt, hrun, h, Bool.false_eq_true, if_false]

/-- A step that answers a next state runs an instruction, and does not follow a shutdown. -/
theorem step_next {s t : State} (h : step s = .next t) : s.shutdown = false ∧ ∃ i, exec i s = .next t := by
  unfold step stepState at h
  split at h
  · cases h
  · rename_i hrun
    refine ⟨by simpa using hrun, ?_⟩
    split at h
    · exact ⟨_, h⟩
    · cases h
    · cases h

/-! ## What is kept -/

namespace Kept

variable {i : Instr} {s u : State}

/-- VM and the reserved bits are kept by every rule. -/
theorem flagVM_eq (h : Kept i s u) : flagVM u.eflags = flagVM s.eflags := by
  rcases h.eflags with h | ⟨-, sz, v, h⟩
  · rw [h]
  · rw [h, flagVM_popfFlags]

theorem reserved_eq (h : Kept i s u) : u.eflags &&& reservedMask = s.eflags &&& reservedMask := by
  rcases h.eflags with h | ⟨-, sz, v, h⟩
  · rw [h]
  · rw [h, popfFlags_and_reservedMask]

theorem mode_eq (h : Kept i s u) : u.mode = s.mode := by
  simp only [State.mode, h.cr0, h.flagVM_eq]

theorem seg_cs_eq (h : Kept i s u) : u.seg .cs = s.seg .cs := by
  rcases h.segs with h | ⟨S, x, hS, h, -⟩
  · rw [State.seg, h]; rfl
  · rw [State.seg, h, Segs.get_set, if_neg hS.symm]; rfl

/-- A segment register that a rule writes is not null after it, unless it is one of DS, ES, FS and GS in protected
mode. -/
theorem notNull (h : Kept i s u) {S : SReg} (hS : (s.seg S).hid.null = false) (hm : s.mode ≠ .prot ∨ S = .ss ∨ S = .cs) :
    (u.seg S).hid.null = false := by
  rcases h.segs with h | ⟨X, x, hX, h, hx⟩
  · rwa [State.seg, h]
  · rw [State.seg, h, Segs.get_set]
    split
    · subst S
      exact hx (hm.imp_right fun hm => hm.resolve_right hX)
    · exact hS

/-- The launch invariant but for `shutdown = 0` is kept by every rule. -/
theorem inv (h : Kept i s u) (hs : Inv s) : Inv u where
  reserved := by
    have hr := hs.reserved
    rw [reservedOk, decide_eq_true_iff] at hr ⊢
    rw [h.reserved_eq, hr]
  cplReal hm := by rw [h.cpl]; exact hs.cplReal (h.mode_eq ▸ hm)
  cplV86 hm := by rw [h.cpl]; exact hs.cplV86 (h.mode_eq ▸ hm)
  ssNotNull := h.notNull hs.ssNotNull (.inr (.inl rfl))
  csNotNull := h.notNull hs.csNotNull (.inr (.inr rfl))
  notNull hm S := h.notNull (hs.notNull (h.mode_eq ▸ hm) S) (.inl (h.mode_eq ▸ hm))
  memWf := h.mem.wf hs.memWf

end Kept

/-- The invariant does not speak of `pc`, `inhibit` and `shutdown`. -/
theorem Inv.of_retire {i : Instr} {b : Bool} {s u : State} (h : Inv u) : Inv (s.retire i b u) :=
  ⟨h.reserved, h.cplReal, h.cplV86, h.ssNotNull, h.csNotNull, h.notNull, h.memWf⟩

theorem Inv.of_shutdown {s : State} (h : Inv s) : Inv { s with shutdown := true } :=
  ⟨h.reserved, h.cplReal, h.cplV86, h.ssNotNull, h.csNotNull, h.notNull, h.memWf⟩

/-! ## The statements -/

/-- Settles O8: a step completes an instruction, whose rule keeps the invariant, or shuts down. -/
theorem launchInvariantKept : Obligations.LaunchInvariantKept := by
  intro s t h
  obtain ⟨hrun, i, hi⟩ := step_next h
  rcases exec_next hi with ⟨u, hkept, rfl⟩ | ⟨hm, rfl⟩
  · have hinv : Inv s → Inv (s.retire i (inhibitAfter i s) u) := fun hs => (hkept.inv hs).of_retire
    exact ⟨hinv, fun hs => .inl ⟨hinv hs.toInv, hkept.shutdown.trans hrun⟩⟩
  · exact ⟨Inv.of_shutdown, fun _ => .inr ⟨hm, rfl⟩⟩

/-- Settles O10: no rule changes them, and neither completing nor a shutdown does. -/
theorem modeAndLevelConstant : Obligations.ModeAndLevelConstant := by
  intro s t h
  obtain ⟨-, i, hi⟩ := step_next h
  rcases exec_next hi with ⟨u, hkept, rfl⟩ | ⟨-, rfl⟩
  · exact ⟨hkept.mode_eq, hkept.cpl, hkept.cr0, hkept.seg_cs_eq, hkept.fpuPending, hkept.admitted, hkept.text⟩
  · exact ⟨rfl, rfl, rfl, rfl, rfl, rfl, rfl⟩

/-- Settles O11: a rule keeps EFLAGS or is that of POPF or POPFD, which keeps VM and the reserved bits. -/
theorem onlyPopfWritesFlags : Obligations.OnlyPopfWritesFlags := by
  intro i s t h
  rcases exec_next h with ⟨u, hkept, rfl⟩ | ⟨-, rfl⟩
  · refine ⟨fun h16 h32 => ?_, hkept.flagVM_eq, hkept.reserved_eq⟩
    exact hkept.eflags.resolve_right fun ⟨hi, _⟩ => hi.elim h16 h32
  · exact ⟨fun _ _ => rfl, rfl, rfl⟩

/-- Settles O12: completing adds the length to `pc` and keeps `shutdown`; a shutdown sets it and keeps `pc`. -/
theorem completedInstructionAdvancesPc : Obligations.CompletedInstructionAdvancesPc := by
  intro i s t hrun h
  rcases exec_next h with ⟨u, hkept, rfl⟩ | ⟨-, rfl⟩
  · rw [State.retire_shutdown, hkept.shutdown, hrun]
    rfl
  · rfl

/-- Settles O13: the inhibit that completing leaves is set by POP SS alone, and an exception clears it. -/
theorem inhibitAfterPopSsAlone : Obligations.InhibitAfterPopSsAlone := by
  intro i s
  refine ⟨fun t h hrun => ?_, fun e after h => ?_⟩
  · rcases exec_next h with ⟨u, -, rfl⟩ | ⟨-, rfl⟩
    · rw [State.retire_inhibit]
      cases i <;> rfl
    · cases hrun
  · obtain ⟨e', -, he⟩ := exec_fault h
    cases he
    rfl

/-- Settles O14: taking an exception carries the state before the instruction. -/
theorem exceptionUndoesInstruction : Obligations.ExceptionUndoesInstruction := by
  intro i s f h
  obtain ⟨e, -, hf⟩ := exec_fault h
  exact ⟨e, hf⟩

/-- A store whose bytes are all in the modelled memory and some in the program text is refused. -/
theorem placeCheck_storeIntoText {s : State} {ps : List Nat} (hin : ∀ p ∈ ps, inRegions s.admitted p = true)
    (htext : ∃ p ∈ ps, inRegions s.text p = true) :
    ∃ q ∈ ps, placeCheck true s ps = .error (.refuse (.storeIntoText q)) := by
  have hplace : ps.find? (fun p => !inRegions s.admitted p) = none := by
    simpa [List.find?_eq_none] using hin
  obtain ⟨q, hq⟩ := Option.isSome_iff_exists.1 (List.find?_isSome.2 htext)
  exact ⟨q, List.mem_of_find?_eq_some hq, by simp only [placeCheck, hplace, hq]⟩

/-- Settles O15: every rule keeps the bytes of the text, and the place check of a store finds one that is text. -/
theorem programTextNeverStoredInto : Obligations.ProgramTextNeverStoredInto := by
  refine ⟨fun s t p h hp => ?_, fun s ps => placeCheck_storeIntoText⟩
  obtain ⟨-, i, hi⟩ := step_next h
  rcases exec_next hi with ⟨u, hkept, rfl⟩ | ⟨-, rfl⟩
  · exact hkept.mem.text p hp
  · rfl

/-- Settles O6. -/
theorem stepRunsDecodedInstruction : Obligations.StepRunsDecodedInstruction := fun _ _ _ => step_of_decode

/-- Settles O7, by what the decoder answers. -/
theorem stepRefusesWhatDoesNotDecode : Obligations.StepRefusesWhatDoesNotDecode := by
  intro s
  refine ⟨fun hdown => ?_, fun hrun h => ?_, fun hrun e he h => ?_⟩
  · simp only [step, stepState, hdown, if_true]
  · simp only [step, stepState, decodeAt, hrun, h, Bool.false_eq_true, if_false]
  · simp only [step, stepState, decodeAt, hrun, h, Bool.false_eq_true, if_false]

/-- Settles O9: each part is read off the reset values. -/
theorem resetMeetsLaunchInvariant : Obligations.ResetMeetsLaunchInvariant where
  reserved := by decide
  cplReal _ := rfl
  cplV86 hm := absurd hm (by decide)
  ssNotNull := rfl
  csNotNull := rfl
  notNull _ S := by cases S <;> rfl
  memWf := Memory.wf_reset
  running := rfl

end Sys2Proof.Machine
end

section
/-! Exceptions: which an instruction can raise (60_exceptions.md R361, R366, R367), and the availability checks and the
frame of the MMX instructions (40_mmx_common.md R121 to R124). -/

namespace Sys2Proof.Machine

/-! ## Why an instruction raised, seen from its exception -/

/-- No access raises #UD, #NM, #MF or #NP. -/
theorem AccessExn.ne {m : Mode} {e : Exn} (h : AccessExn m e) :
    ¬(e = .ud ∨ e = .nm ∨ e = .mf) ∧ ∀ c, e ≠ .np c := by
  cases m with
  | real => rcases h with rfl | rfl <;> simp
  | prot => rcases h with rfl | rfl | rfl | ⟨a, c, rfl⟩ <;> simp
  | v86 => rcases h with rfl | rfl | rfl | ⟨a, c, rfl⟩ <;> simp

/-- Settles O17, by why the rule raised. -/
theorem whoRaisesWhichException : Obligations.WhoRaisesWhichException := by
  intro i s after e h
  obtain ⟨e', hcause, heq⟩ := exec_fault h
  cases heq
  cases hcause with
  | unavailable hi he =>
    exact ⟨fun _ => hi, fun c hc => by subst hc; simp at he, fun _ _ => he⟩
  | access hi he =>
    exact ⟨fun h => absurd h he.ne.1, fun c hc => absurd hc (he.ne.2 c), fun hmmx hmem => absurd hmem (hi hmmx)⟩
  | load hi hm he hS =>
    obtain ⟨c, he⟩ := he
    refine ⟨fun h => ?_, fun c' hc => ⟨hm, ?_⟩, fun hmmx => ?_⟩
    · rcases he with rfl | rfl | ⟨-, rfl⟩ <;> simp at h
    · rcases he with rfl | rfl | ⟨hss, -⟩
      · cases hc
      · cases hc
      · exact hS hss
    · rw [isMmx_false hi] at hmmx
      cases hmmx

/-! ## Page faults (20_memory.md R54 step 4) -/

section
variable {write : Bool} {s : State} {lin : Dword} {n : Nat}

/-- A byte further on is a byte further on from the next. -/
theorem lin_succ_add (lin : Dword) (k : Nat) : lin + 1 + BitVec.ofNat 32 k = lin + BitVec.ofNat 32 (k + 1) := by
  rw [BitVec.add_assoc, Nat.add_comm k 1, BitVec.ofNat_add]
  rfl

theorem translateBytes_succ_error {e : Stop} (h : translateByte write s lin = .error e) :
    translateBytes write s lin (n + 1) = .error e := by
  rw [translateBytes, h]
  rfl

theorem translateBytes_succ_ok {p : Nat} (h : translateByte write s lin = .ok p) {e : Stop} :
    translateBytes write s lin (n + 1) = .error e ↔ translateBytes write s (lin + 1) n = .error e := by
  rw [translateBytes, h]
  cases translateBytes write s (lin + 1) n <;> simp [bind, Except.bind]

/-- A translation stops with `e` exactly when the byte of some offset does, and those of lower offset are translated. -/
theorem translateBytes_error_iff {e : Stop} :
    translateBytes write s lin n = .error e ↔
      ∃ k, k < n ∧ translateByte write s (lin + BitVec.ofNat 32 k) = .error e ∧
        ∀ j, j < k → ∃ p, translateByte write s (lin + BitVec.ofNat 32 j) = .ok p := by
  induction n generalizing lin with
  | zero => simp [translateBytes]
  | succ n ih =>
    have hzero : lin + BitVec.ofNat 32 0 = lin := BitVec.add_zero lin
    cases hfirst : translateByte write s lin with
    | error e' =>
      rw [translateBytes_succ_error hfirst]
      constructor
      · intro h
        cases h
        exact ⟨0, by omega, by rwa [hzero], by omega⟩
      · rintro ⟨k, -, hk, hbelow⟩
        cases k with
        | zero => rwa [hzero, hfirst, Except.error.injEq, ← Except.error.injEq (ε := Stop) (α := List Nat)] at hk
        | succ k =>
          obtain ⟨p, hp⟩ := hbelow 0 (by omega)
          rw [hzero, hfirst] at hp
          cases hp
    | ok p =>
      rw [translateBytes_succ_ok hfirst, ih]
      constructor
      · rintro ⟨k, hk, he, hbelow⟩
        refine ⟨k + 1, by omega, by rwa [← lin_succ_add], fun j hj => ?_⟩
        cases j with
        | zero => exact ⟨p, by rwa [hzero]⟩
        | succ j =>
          rw [← lin_succ_add]
          exact hbelow j (by omega)
      · rintro ⟨k, hk, he, hbelow⟩
        cases k with
        | zero =>
          rw [hzero, hfirst] at he
          cases he
        | succ k =>
          refine ⟨k, by omega, by rwa [lin_succ_add], fun j hj => ?_⟩
          rw [lin_succ_add]
          exact hbelow (j + 1) (by omega)

end

/-- Only the translation of an access raises a page fault. -/
theorem access_pageFault {who : Requester} {write : Bool} {S : SReg} {off : Dword} {n : Nat} {s : State} {a c : Dword}
    (h : access who write S off n s = .error (.raise (.pf a c))) :
    translateBytes write s (s.linear S off) n = .error (.raise (.pf a c)) := by
  rcases access_error.1 h with h | ⟨-, h | ⟨ps, -, h | ⟨-, h⟩⟩⟩
  · simp only [segmentCheck, limitExn] at h
    repeat' split at h
    all_goals cases h
  · exact h
  · unfold alignCheck at h
    split at h <;> cases h
  · unfold placeCheck at h
    repeat' split at h
    all_goals cases h

/-- Settles O16: the modes by why the rule raised, the page faults by the first byte that is not translated. -/
theorem errorCodesByMode : Obligations.ErrorCodesByMode := by
  refine ⟨fun i s after e h => ?_, fun who write S off n k s e hseg hk hbelow he => ?_,
    fun who write S off n s a c h => ?_⟩
  · obtain ⟨e', hcause, heq⟩ := exec_fault h
    cases heq
    cases hcause with
    | unavailable hi he =>
      cases s.mode
      · tauto
      · rcases he with rfl | rfl | rfl <;> simp
      · tauto
    | access hi he =>
      cases hm : s.mode <;> rw [hm] at he
      · exact .inr (.inr (.inr he))
      · rcases he with rfl | rfl | rfl | ⟨a, c, rfl⟩ <;> simp
      · exact .inr (.inr (.inr he))
    | load hi hm he hS =>
      rw [hm]
      obtain ⟨c, rfl | rfl | ⟨-, rfl⟩⟩ := he <;> simp
  · obtain ⟨-, present, -, rfl⟩ := translateByte_error.1 he
    have htrans := translateBytes_error_iff.2 ⟨k, hk, he, hbelow⟩
    exact ⟨access_error.2 (.inr ⟨hseg, .inl htrans⟩), _, rfl⟩
  · obtain ⟨k, hk, he, hbelow⟩ := translateBytes_error_iff.1 (access_pageFault h)
    obtain ⟨hm, present, -, heq⟩ := translateByte_error.1 he
    cases heq
    obtain ⟨hlt, -, hwrite, huser⟩ :=
      pageFaultWord_bits { present := present, write := write, user := decide (s.cpl = 3) }
    exact ⟨hm, hlt, hwrite, huser, k, hk, rfl, ⟨_, he⟩, hbelow⟩

/-! ## The two templates of the MMX instructions -/

/-- How many bytes the memory operand of an MMX instruction has (40_mmx_common.md R120). -/
def operandBytes : Instr → Nat
  | .punpcklbw _ _ => 4
  | .punpcklwd _ _ => 4
  | .punpckldq _ _ => 4
  | _ => 8

/-- An MMX instruction is one of the two templates, the same in every state. -/
inductive MmxForm (i : Instr) : Prop where
  | rm (dst : MReg) (src : MmSrc) (f : Qword → Qword → Qword) (dest : mmDest i = some dst)
      (operand : memOperand i = MmSrc.memOp src) (form : ∀ s, exec i s = mmxRun i dst src (operandBytes i) f s)
  | imm (dst : MReg) (c : Byte) (f : Qword → Nat → Qword) (dest : mmDest i = some dst) (operand : memOperand i = none)
      (form : ∀ s, exec i s = mmxRunImm i dst c f s)

theorem mmx_form {i : Instr} (hi : isMmx i = true) : MmxForm i := by
  cases i
  case psllw dst src => exact .rm dst src (fun d v => psllw d v.toNat) rfl rfl fun _ => rfl
  case pslld dst src => exact .rm dst src (fun d v => pslld d v.toNat) rfl rfl fun _ => rfl
  case psllq dst src => exact .rm dst src (fun d v => psllq d v.toNat) rfl rfl fun _ => rfl
  case psraw dst src => exact .rm dst src (fun d v => psraw d v.toNat) rfl rfl fun _ => rfl
  case psrad dst src => exact .rm dst src (fun d v => psrad d v.toNat) rfl rfl fun _ => rfl
  case psrlw dst src => exact .rm dst src (fun d v => psrlw d v.toNat) rfl rfl fun _ => rfl
  case psrld dst src => exact .rm dst src (fun d v => psrld d v.toNat) rfl rfl fun _ => rfl
  case psrlq dst src => exact .rm dst src (fun d v => psrlq d v.toNat) rfl rfl fun _ => rfl
  all_goals
    first
      | exact .rm _ _ _ rfl rfl fun _ => rfl
      | exact .imm _ _ _ rfl rfl fun _ => rfl
      | cases hi

/-! ## The availability checks (R121) -/

section
variable {i : Instr} {s : State} {src : MmSrc} {n : Nat}

theorem mmxEnabled_ud (hem : s.cr0.em = true) : mmxEnabled s = .error (.raise .ud) := by
  simp [mmxEnabled, hem]

theorem mmxEnabled_nm (hem : s.cr0.em = false) (hts : s.cr0.ts = true) : mmxEnabled s = .error (.raise .nm) := by
  simp [mmxEnabled, hem, hts]

/-- With a pending FPU exception the source is not had: #MF, or what the operand raises if `ExcChoice` says so. -/
theorem mmxSource_pending (hem : s.cr0.em = false) (hts : s.cr0.ts = false) (hf : s.fpuPending = true) :
    mmxSource src n s = .error (.raise .mf) ∨
      (Config.excChoice s = false ∧ ∃ e, mmxOperand src n s = .error (.raise e) ∧ mmxSource src n s = .error (.raise e)) := by
  unfold mmxSource
  rw [mmxEnabled_ok.2 ⟨hem, hts⟩, hf]
  cases hop : mmxOperand src n s with
  | ok v => exact .inl rfl
  | error x =>
    cases x with
    | shutdown => exact .inl rfl
    | refuse x => exact .inl rfl
    | raise e =>
      cases hc : Config.excChoice s with
      | true => exact .inl rfl
      | false => exact .inr ⟨rfl, e, rfl, rfl⟩

/-- A read depends on what its access depends on. -/
theorem memRead_congr {who : Requester} {S : SReg} {off : Dword} {n : Nat} {s t : State} (hs : t.segs = s.segs)
    (hc : t.cr0 = s.cr0) (hf : t.eflags = s.eflags) (hl : t.cpl = s.cpl) (hm : t.mem = s.mem)
    (ha : t.admitted = s.admitted) (hx : t.text = s.text) : memRead who S off n t = memRead who S off n s := by
  rw [memRead, memRead, access_congr hs hc hf hl hm ha hx, hm]

/-- The operand does not depend on the pending FPU exception. -/
theorem mmxOperand_fpuPending (b : Bool) : mmxOperand src n { s with fpuPending := b } = mmxOperand src n s := by
  cases src with
  | reg r => rfl
  | mem m =>
    have haddr : effectiveAddr { s with fpuPending := b } m.addr = effectiveAddr s m.addr := by
      cases m.addr with
      | a16 base d => cases base <;> rfl
      | sib base sc index d => cases index <;> rfl
      | sibNoBase sc index o => cases index <;> rfl
      | _ => rfl
    rw [mmxOperand, haddr]
    exact memRead_congr rfl rfl rfl rfl rfl rfl rfl

/-- What the source raises the instruction raises. -/
theorem mmxRun_raise_source {dst : MReg} {f : Qword → Qword → Qword} {e : Exn}
    (h : mmxSource src n s = .error (.raise e)) : mmxRun i dst src n f s = takeException e s := by
  unfold mmxRun
  rw [h]
  rfl

theorem mmxRunImm_pending {dst : MReg} {c : Byte} {f : Qword → Nat → Qword} (hem : s.cr0.em = false)
    (hts : s.cr0.ts = false) (hf : s.fpuPending = true) : mmxRunImm i dst c f s = takeException .mf s := by
  unfold mmxRunImm
  rw [mmxEnabled_ok.2 ⟨hem, hts⟩, hf]
  rfl

/-- A failing availability check is raised whatever the operand. -/
theorem raises_of_mmxEnabled (hi : isMmx i = true) {e : Exn} (h : mmxEnabled s = .error (.raise e)) : Raises i s e := by
  cases mmx_form hi with
  | rm dst src f dest operand form =>
    refine (form s).trans (mmxRun_raise_source ?_)
    unfold mmxSource
    rw [h]
    rfl
  | imm dst c f dest operand form =>
    refine (form s).trans ?_
    unfold mmxRunImm
    rw [h]
    rfl

end

/-- Settles O18: the checks come first in both templates; what follows is the read of the operand. -/
theorem mmxAvailabilityChecks : Obligations.MmxAvailabilityChecks := by
  intro i s hi
  refine ⟨fun hem => raises_of_mmxEnabled hi (mmxEnabled_ud hem),
    fun hem hts => raises_of_mmxEnabled hi (mmxEnabled_nm hem hts), fun hem hts hf => ?_, fun ha m e hm => ?_⟩
  · cases mmx_form hi with
    | rm dst src f dest operand form =>
      rcases mmxSource_pending (src := src) (n := operandBytes i) hem hts hf with h | ⟨hc, e, hop, h⟩
      · exact .inl ((form s).trans (mmxRun_raise_source h))
      · refine .inr ⟨hc, e, (form s).trans (mmxRun_raise_source h), (form _).trans (mmxRun_raise_source ?_)⟩
        exact (mmxSource_available (s := { s with fpuPending := false }) hem hts rfl).trans
          ((mmxOperand_fpuPending false).trans hop)
    | imm dst c f dest operand form =>
      exact .inl ((form s).trans (mmxRunImm_pending hem hts hf))
  · intro n hread
    have hn : n = operandBytes i := by cases i <;> rfl
    cases mmx_form hi with
    | rm dst src f dest operand form =>
      cases src with
      | reg r => rw [hm] at operand; cases operand
      | mem m' =>
        rw [hm] at operand
        cases operand
        exact (form s).trans (mmxRun_raise ha (by rwa [← hn]))
    | imm dst c f dest operand form => rw [hm] at operand; cases operand

/-- Settles O19: both templates write the destination alone; no other rule writes an MMX register. -/
theorem mmxWritesDestinationAlone : Obligations.MmxWritesDestinationAlone := by
  refine ⟨fun i dst s t hdest h => ?_, fun i s t hdest h r => ?_⟩
  · have completes : ∃ v, t = s.retire i false (s.setMm dst v) := by
      cases mmx_form (i := i) (by rw [isMmx, hdest]; rfl) with
      | rm dst' src f dest operand form =>
        cases hdest.symm.trans dest
        obtain ⟨v, -, -, ht⟩ := mmxRun_next.1 ((form s).symm.trans h)
        exact ⟨_, ht⟩
      | imm dst' c f dest operand form =>
        cases hdest.symm.trans dest
        exact ⟨_, (mmxRunImm_next.1 ((form s).symm.trans h)).2⟩
    obtain ⟨v, rfl⟩ := completes
    refine ⟨rfl, fun r hr => ?_, fun _ => rfl, fun _ => rfl⟩
    exact (State.getMm_setMm s dst r v).trans (if_neg hr)
  · rcases exec_next h with ⟨u, hkept, rfl⟩ | ⟨-, rfl⟩
    · rw [State.getMm, State.retire_mm, hkept.mm hdest]
      rfl
    · rfl

/-! ## Null segment registers (20_memory.md R59) -/

/-- A read through a null segment register raises #GP(0) in protected mode. -/
theorem memRead_null {who : Requester} {S : SReg} {off : Dword} {n : Nat} {s : State} (hmode : s.mode = .prot)
    (hnull : (s.seg S).hid.null = true) : memRead who S off n s = .error (.raise (.gp (some 0))) :=
  Res.bind_error.2 (.inl (access_null hmode hnull))

/-- PUSH of a memory operand raises what its read raises. -/
theorem pushRm_raise_read {sz : OpSize} {m : MemOp} {s : State} {x : Stop}
    (h : memRead .integer (MemOp.segment m) (effectiveAddr s m.addr) (opBytes sz) s = .error x) :
    pushRm sz (.mem m) s = .error x :=
  Res.bind_error.2 (.inl (Res.bind_error.2 (.inl h)))

/-- What the rule of an instruction raises, the instruction raises. -/
theorem settle_raise {i : Instr} {b : Bool} {s : State} {r : Res State} {e : Exn} (h : r = .error (.raise e)) :
    settle i b s r = .fault (.exception e { s with inhibit := false }) :=
  settle_fault.2 ⟨e, h, rfl⟩

/-- Settles O34: the access procedure stops at the null mark, and the operand of these instructions is one access. -/
theorem nullSegmentRaisesGp : Obligations.NullSegmentRaisesGp := by
  refine ⟨fun who write S off n s hm hnull => access_null hm hnull, fun i m s hm hop hnull hi => ?_⟩
  rcases hi with ⟨hmmx, ha⟩ | ⟨src, hi⟩
  · cases mmx_form hmmx with
    | rm dst src f dest operand form =>
      cases src with
      | reg r => rw [hop] at operand; cases operand
      | mem m' =>
        rw [hop] at operand
        cases operand
        exact (form s).trans (mmxRun_raise ha (memRead_null hm hnull))
    | imm dst c f dest operand form => rw [hop] at operand; cases operand
  · have hsrc : src = .mem m := by
      cases src with
      | reg r => rcases hi with rfl | rfl <;> cases hop
      | mem m' => rcases hi with rfl | rfl <;> cases hop <;> rfl
    subst hsrc
    rcases hi with rfl | rfl
    · exact settle_raise (pushRm_raise_read (memRead_null hm hnull))
    · exact settle_raise (pushRm_raise_read (memRead_null hm hnull))

end Sys2Proof.Machine
end

section
/-! The checks of an access (20_memory.md R54, R55, R57, R61) and the bytes that it moves (R60). -/

namespace Sys2Proof.Machine

/-! ## Limit checks -/

/-- The limit check is about every byte of the operand (R55). -/
theorem inLimit_iff {h : Hidden} {off : Dword} {n : Nat} (hn : 0 < n) :
    inLimit h off n = true ↔ ∀ k, k < n →
      if h.expdown = true ∧ h.code = false then
        h.limit.toNat < off.toNat + k ∧ off.toNat + k ≤ (if h.db then 0xFFFFFFFF else 0xFFFF)
      else off.toNat + k ≤ h.limit.toNat := by
  unfold inLimit
  by_cases hdown : h.expdown = true ∧ h.code = false
  · simp only [hdown, Bool.not_false, Bool.and_self, if_true, Bool.and_eq_true, decide_eq_true_eq, and_self]
    constructor
    · intro hlim k hk
      omega
    · intro hlim
      have hfirst := hlim 0 hn
      have hlast := hlim (n - 1) (by omega)
      omega
  · have hup : (h.expdown && !h.code) = false := by simpa using hdown
    simp only [hup, hdown, Bool.false_eq_true, if_false, decide_eq_true_eq]
    constructor
    · intro hlim k hk
      omega
    · intro hlim
      have hlast := hlim (n - 1) (by omega)
      omega

section
variable {who : Requester} {write : Bool} {S : SReg} {off : Dword} {n : Nat} {s : State}

/-- A failing segment check stops the access. -/
theorem access_of_segmentCheck {x : Stop} (h : segmentCheck who write S off n s = .error x) :
    access who write S off n s = .error x :=
  access_error.2 (.inl h)

/-- The exception of a limit failure is told by the segment, its code by the mode (R55, R57). -/
theorem limitExn_eq {c : Option Dword} (hc : s.zeroCode = c) : limitExn S s = if S = .ss then .ss c else .gp c := by
  rw [limitExn, hc]

/-- The second step of the segment check fails: a write that the segment does not take, or a read that it does not give
(R54 step 2). -/
def Denied (write : Bool) (h : Hidden) : Prop :=
  (write = true ∧ (h.code = true ∨ h.writable = false)) ∨ (write = false ∧ h.code = true ∧ h.readable = false)

/-- The segment check of protected mode, its steps in order, where the segment register is not null. -/
theorem segmentCheck_prot (hm : s.mode = .prot) (hnull : (s.seg S).hid.null = false) :
    (Denied write (s.seg S).hid → segmentCheck who write S off n s = .error (.raise (.gp (some 0)))) ∧
    (¬Denied write (s.seg S).hid → inLimit (s.seg S).hid off n = false →
      segmentCheck who write S off n s = .error (.raise (limitExn S s))) := by
  simp only [segmentCheck, hm, hnull, Bool.false_eq_true, if_false, Denied]
  generalize (s.seg S).hid = h
  cases write <;> cases h.code <;> cases h.writable <;> cases h.readable <;> simp +contextual

end

/-- Settles O35: the limit check byte by byte, and the steps of the segment check in order. -/
theorem limitCheckOfProtectedMode : Obligations.LimitCheckOfProtectedMode := by
  refine ⟨fun h off n hn => inLimit_iff hn, fun who write S off n s hm hnull => ?_⟩
  obtain ⟨hdenied, hlimit⟩ := segmentCheck_prot (who := who) (write := write) (off := off) (n := n) hm hnull
  refine ⟨fun hd => access_of_segmentCheck (hdenied hd), fun hd hlim => ?_⟩
  rw [← limitExn_eq (s := s) (by simp [State.zeroCode, hm])]
  exact access_of_segmentCheck (hlimit hd hlim)

/-- An operand ends within the first 64 KiB when no byte of it lies beyond. -/
theorem exists_beyond_iff {off : Dword} {n : Nat} (hn : 0 < n) :
    (∃ k, k < n ∧ 0xFFFF < off.toNat + k) ↔ ¬off.toNat + n - 1 ≤ 0xFFFF := by
  constructor
  · rintro ⟨k, hk, hlt⟩
    omega
  · intro h
    exact ⟨n - 1, by omega, by omega⟩

/-- Settles O36: outside protected mode the segment check is one limit check, that of the requester. -/
theorem limitCheckOutsideProtectedMode : Obligations.LimitCheckOutsideProtectedMode := by
  intro write S off n s hm hn code
  have hcode : s.zeroCode = code := by
    cases h : s.mode <;> simp_all [State.zeroCode, code]
  have hcheck : ∀ who, segmentCheck who write S off n s =
      match who with
      | .mmx => if off.toNat + n - 1 ≤ 0xFFFF then .ok () else .error (.raise (.gp s.zeroCode))
      | .integer => if inLimit (s.seg S).hid off n then .ok () else .error (.raise (limitExn S s)) := by
    intro who
    cases h : s.mode
    · cases who <;> simp only [segmentCheck, h]
    · exact absurd h hm
    · cases who <;> simp only [segmentCheck, h]
  refine ⟨?_, ?_, fun who e => access_of_segmentCheck⟩
  · simp only [hcheck, exists_beyond_iff hn, hcode, ite_not]
  · simp only [hcheck, limitExn_eq hcode]

/-! ## The alignment check (R61) -/

theorem alignCheck_error_iff {lin : Dword} {n : Nat} {s : State} :
    alignCheck lin n s = .error (.raise .ac) ↔
      s.mode ≠ .real ∧ s.cpl = 3 ∧ s.cr0.am = true ∧ flagAC s.eflags = true ∧ ¬n ∣ lin.toNat := by
  unfold alignCheck
  rw [Nat.dvd_iff_mod_eq_zero]
  split
  · exact iff_of_true rfl ‹_›
  · exact iff_of_false nofun ‹_›

/-- Settles O37: the check itself, and its place in the order of R54: the only step that raises #AC, and the last. -/
theorem alignmentCheckIsLast : Obligations.AlignmentCheckIsLast := by
  refine ⟨fun lin n s => alignCheck_error_iff, fun who write S off n s h => ?_,
    fun who write S off n s ps hseg htrans halign => ?_⟩
  · rcases access_error.1 h with h | ⟨hseg, h | ⟨ps, htrans, h | ⟨-, h⟩⟩⟩
    · simp only [segmentCheck, limitExn] at h
      repeat' split at h
      all_goals cases h
    · obtain ⟨-, a, c, h⟩ := translateBytes_error h
      cases h
    · exact ⟨hseg, ⟨ps, htrans⟩, h⟩
    · unfold placeCheck at h
      repeat' split at h
      all_goals cases h
  · exact access_error.2 (.inr ⟨hseg, .inr ⟨ps, htrans, .inl halign⟩⟩)

/-! ## The bytes of an access (R60) -/

/-- Byte `k` of the bytes of a value. -/
theorem getElem_leBytes {n k : Nat} (v : Qword) (hk : k < (leBytes n v).length) :
    (leBytes n v)[k] = v.extractLsb' (8 * k) 8 := by
  induction n generalizing k v with
  | zero => simp at hk
  | succ n ih =>
    cases k with
    | zero => rfl
    | succ k =>
      simp only [leBytes, List.getElem_cons_succ, ih]
      apply BitVec.eq_of_getLsbD_eq
      intro i _
      simp [Nat.mul_add, Nat.add_comm, Nat.add_left_comm]

/-- The value of the low bytes of a value is the value modulo their range. -/
theorem toNat_littleEndian_leBytes {n : Nat} (hn : n ≤ 8) (v : Qword) :
    (littleEndian (leBytes n v)).toNat = v.toNat % 2 ^ (8 * n) := by
  induction n generalizing v with
  | zero => simp [leBytes, littleEndian, Nat.mod_one]
  | succ n ih =>
    have hrest := ih (by omega) (v >>> 8)
    rw [BitVec.toNat_ushiftRight, Nat.shiftRight_eq_div_pow] at hrest
    have hlt : (littleEndian (leBytes n (v >>> 8))).toNat < 2 ^ 56 := by
      rw [hrest]
      exact Nat.lt_of_lt_of_le (Nat.mod_lt _ (by positivity)) (Nat.pow_le_pow_right (by decide) (by omega))
    have hlow : (v.extractLsb' 0 8).toNat = v.toNat % 2 ^ 8 := by
      rw [BitVec.extractLsb'_toNat, Nat.shiftRight_zero]
    have hshift : (littleEndian (leBytes n (v >>> 8)) <<< 8).toNat = (littleEndian (leBytes n (v >>> 8))).toNat <<< 8 := by
      rw [BitVec.toNat_shiftLeft, Nat.mod_eq_of_lt]
      rw [Nat.shiftLeft_eq]
      omega
    rw [leBytes, littleEndian, BitVec.toNat_or, hshift, BitVec.toNat_setWidth, hlow,
      Nat.mod_eq_of_lt (b := 2 ^ 64) (by omega), ← Nat.shiftLeft_add_eq_or_of_lt (by omega), hrest, Nat.shiftLeft_eq,
      Nat.mul_succ 8 n, Nat.pow_add, Nat.mul_comm (2 ^ (8 * n)), Nat.mod_mul]
    ring

/-- The physical addresses of `n` bytes from a linear address on, in real-address mode. -/
def realPlaces (lin : Dword) (n : Nat) : List Nat := (List.range n).map fun k => (lin + BitVec.ofNat 32 k).toNat

theorem realPlaces_nodup (lin : Dword) {n : Nat} (hn : n ≤ 2 ^ 32) : (realPlaces lin n).Nodup := by
  refine List.Nodup.map_on (fun j hj k hk h => ?_) List.nodup_range
  have hjk := congrArg BitVec.toNat ((BitVec.add_right_inj lin).1 (BitVec.eq_of_toNat_eq h))
  rw [List.mem_range] at hj hk
  rwa [BitVec.toNat_ofNat, BitVec.toNat_ofNat, Nat.mod_eq_of_lt (by omega), Nat.mod_eq_of_lt (by omega)] at hjk

section
variable {who : Requester} {write : Bool} {S : SReg} {off : Dword} {n : Nat} {s t : State} {ps : List Nat}

/-- In real-address mode an access is the limit check and the place check of consecutive addresses. -/
theorem access_real_ok (hm : s.mode = .real) :
    access who write S off n s = .ok ps ↔
      segmentCheck who write S off n s = .ok () ∧ ps = realPlaces (s.linear S off) n ∧
        placeCheck write s ps = .ok () := by
  have halign : alignCheck (s.linear S off) n s = .ok () := by simp [alignCheck, hm]
  rw [access_ok, translateBytes_real hm, halign, Except.ok.injEq]
  simp [realPlaces, eq_comm]

/-- In real-address mode the segment check of POP and PUSH does not tell reads from writes. -/
theorem segmentCheck_real (hm : s.mode = .real) :
    segmentCheck .integer write S off n s =
      if inLimit (s.seg S).hid off n then .ok () else .error (.raise (limitExn S s)) := by
  simp only [segmentCheck, hm]

/-- In real-address mode what was written can be read, whatever memory holds. -/
theorem access_read_of_write (hm : s.mode = .real) (h : access .integer true S off n s = .ok ps) (m : Memory) :
    access .integer false S off n (s.setMem m) = .ok ps := by
  obtain ⟨hseg, hps, hplace⟩ := (access_real_ok hm).1 h
  refine (access_real_ok (s := s.setMem m) hm).2 ⟨?_, hps, placeCheck_ok.2 ⟨(placeCheck_ok.1 hplace).1, nofun⟩⟩
  rw [segmentCheck_real hm] at hseg
  rwa [segmentCheck_real (s := s.setMem m) hm]

/-- The bytes that a write stores at distinct addresses. -/
theorem memWrite_stored {v : Qword} (h : memWrite S off n v s = .ok t) (ha : access .integer true S off n s = .ok ps)
    (hd : ps.Nodup) : ps.map t.mem.read = leBytes n v := by
  obtain ⟨qs, hq, rfl⟩ := memWrite_ok.1 h
  cases ha.symm.trans hq
  exact Memory.map_read_store _ _ _ hd (by rw [access_length ha, leBytes_length])

end

/-- Settles O38: in real-address mode the addresses of a store are consecutive and distinct, so each byte is the one
stored there last, and the read of the same bytes passes the same checks. -/
theorem storeIsLittleEndianAndReadBack : Obligations.StoreIsLittleEndianAndReadBack := by
  intro S off n v s t hm hn h
  obtain ⟨ps, ha, rfl⟩ := memWrite_ok.1 h
  obtain ⟨-, hps, -⟩ := (access_real_ok hm).1 ha
  have hstored := memWrite_stored h ha (by rw [hps]; exact realPlaces_nodup _ (by omega))
  refine ⟨fun k hk => ?_, _, memRead_ok.2 ⟨ps, access_read_of_write hm ha _, rfl⟩, ?_⟩
  · have hbyte : (ps.map (s.setMem (s.mem.store ps (leBytes n v))).mem.read)[k]? = (leBytes n v)[k]? := by rw [hstored]
    rw [List.getElem?_eq_getElem (l := leBytes n v) (by simpa using hk), getElem_leBytes, hps, realPlaces, List.map_map,
      List.getElem?_map, List.getElem?_range hk, Option.map_some, Option.some.injEq] at hbyte
    rw [← hbyte, State.linear, ← BitVec.add_assoc, hps]
    rfl
  · rw [hstored, toNat_littleEndian_leBytes hn]

end Sys2Proof.Machine
end

section
/-! MMX results on one register (40_mmx_common.md R126), the relations of unpacking and packing (48_punpck.md R306), and
operands: their segments and addresses (20_memory.md R72, 30_encoding.md R90 to R93). -/

namespace Sys2Proof.Machine

/-! ## One register as source and destination -/

section
variable {c : Byte} {w : Word} {x : Dword} (d : Qword)

theorem mapBytes_self {f : Byte → Byte → Byte} (hf : ∀ a, f a a = c) : mapBytes f d d = ofBytes fun _ => c := by
  simp only [mapBytes, hf]

theorem mapWords_self {f : Word → Word → Word} (hf : ∀ a, f a a = w) : mapWords f d d = ofWords fun _ => w := by
  simp only [mapWords, hf]

theorem mapDwords_self {f : Dword → Dword → Dword} (hf : ∀ a, f a a = x) : mapDwords f d d = ofDwords fun _ => x := by
  simp only [mapDwords, hf]

end

/-- The template on one register: the result is of its value before the instruction. -/
theorem mmxRun_same {i : Instr} {m : MReg} {n : Nat} {f : Qword → Qword → Qword} {s : State} {r : Qword}
    (ha : mmxAvailable s = true) (hf : f (s.getMm m) (s.getMm m) = r) :
    mmxRun i m (.reg m) n f s = .next (s.retire i false (s.setMm m r)) :=
  mmxRun_next.2 ⟨s.getMm m, ha, rfl, by rw [hf]⟩

/-- Settles O32: in each element both operands are the same. -/
theorem sameRegisterSourceAndDestination : Obligations.SameRegisterSourceAndDestination := by
  intro m s ha
  refine ⟨mmxRun_same ha BitVec.xor_self, mmxRun_same ha (mapBytes_self _ (c := 0) fun a => ?_),
    mmxRun_same ha (mapWords_self _ (w := 0) fun a => ?_), mmxRun_same ha (mapDwords_self _ (x := 0) fun a => ?_),
    mmxRun_same ha (mapBytes_self _ (c := 0) fun a => ?_), mmxRun_same ha (mapWords_self _ (w := 0) fun a => ?_),
    mmxRun_same ha (mapBytes_self _ (c := 0) fun a => ?_), mmxRun_same ha (mapWords_self _ (w := 0) fun a => ?_),
    mmxRun_same ha (BitVec.not_and_self _), mmxRun_same ha (mapBytes_self _ (c := BitVec.allOnes 8) fun a => if_pos rfl),
    mmxRun_same ha (mapWords_self _ (w := BitVec.allOnes 16) fun a => if_pos rfl),
    mmxRun_same ha (mapDwords_self _ (x := BitVec.allOnes 32) fun a => if_pos rfl),
    mmxRun_same ha (mapBytes_self _ (c := 0) fun a => if_neg (lt_irrefl _)),
    mmxRun_same ha (mapWords_self _ (w := 0) fun a => if_neg (lt_irrefl _)),
    mmxRun_same ha (mapDwords_self _ (x := 0) fun a => if_neg (lt_irrefl _)), mmxRun_same ha BitVec.and_self,
    mmxRun_same ha BitVec.or_self, mmxRun_same (f := fun d v => psllw d v.toNat) ha rfl⟩
  all_goals
    rw [Int.sub_self]
    rfl

/-! ## Unpacking and packing -/

section
variable (d v : Qword)

theorem byteLane_ushiftRight (k : Nat) : byteLane (d >>> 32) k = byteLane d (4 + k) := by
  apply BitVec.eq_of_getLsbD_eq
  intro i _
  simp [byteLane, Nat.mul_add, Nat.add_assoc]

theorem wordLane_ushiftRight (k : Nat) : wordLane (d >>> 32) k = wordLane d (2 + k) := by
  apply BitVec.eq_of_getLsbD_eq
  intro i _
  simp [wordLane, Nat.mul_add, Nat.add_assoc]

theorem dwordLane_ushiftRight : dwordLane (d >>> 32) 0 = dwordLane d 1 := by
  apply BitVec.eq_of_getLsbD_eq
  intro i _
  simp [dwordLane]

/-- The elements of two bytes are their two bytes. -/
theorem wordLane_eq_append (k : Nat) : wordLane d k = byteLane d (2 * k + 1) ++ byteLane d (2 * k) := by
  apply BitVec.eq_of_getLsbD_eq
  intro i hi
  simp only [wordLane, byteLane, BitVec.getLsbD_append, BitVec.getLsbD_extractLsb', hi, decide_true, Bool.true_and]
  split
  · rw [show 16 * k + i = 8 * (2 * k) + i by omega]
    simp [*]
  · rw [show 16 * k + i = 8 * (2 * k + 1) + (i - 8) by omega]
    simp [show i - 8 < 8 by omega]

/-- Two quadwords with the same bytes are equal. -/
theorem eq_of_byteLane_eq {a b : Qword} (h : ∀ k, k < 8 → byteLane a k = byteLane b k) : a = b := by
  apply BitVec.eq_of_getLsbD_eq
  intro i hi
  have hbyte := congrArg (BitVec.getLsbD · (i % 8)) (h (i / 8) (by omega))
  simpa [byteLane, Nat.mod_lt, Nat.div_add_mod] using hbyte

/-- Unsigned saturation keeps a byte. -/
theorem satU8_zero_append (b : Byte) : satU8 (0#8 ++ b : Word).toInt = b := by
  have hvalue : (0#8 ++ b : Word).toInt = b.toNat := by
    rw [BitVec.toInt_eq_toNat_of_lt] <;> rw [BitVec.toNat_append]
    · simp
    · simp
      omega
  apply BitVec.eq_of_toNat_eq
  have hsat := toNat_satU8 (b.toNat : Int)
  rw [hvalue]
  omega

/-- A byte unpacked against zero is its word. -/
theorem wordLane_of_unpacked {r : Qword} {b : Byte} {k j : Nat}
    (h : byteLane r (2 * k) = b ∧ byteLane r (2 * k + 1) = byteLane 0 j) : satU8 (wordLane r k).toInt = b := by
  rw [wordLane_eq_append, h.1, h.2]
  exact (congrArg (fun z : Byte => satU8 (z ++ b : Word).toInt) (BitVec.extractLsb'_zero ..)).trans (satU8_zero_append b)

end

/-- Settles O33: the upper half shifted down has the elements of the low half; a zero-extended byte does not saturate. -/
theorem unpackAndPackRelations : Obligations.UnpackAndPackRelations := by
  intro d v
  refine ⟨?_, ?_, ?_, eq_of_byteLane_eq fun k hk => ?_⟩
  · exact congrArg ofBytes (funext fun k => by split <;> exact (byteLane_ushiftRight _ _).symm)
  · exact congrArg ofWords (funext fun k => by split <;> exact (wordLane_ushiftRight _ _).symm)
  · exact congrArg ofDwords (funext fun k => by split <;> exact (dwordLane_ushiftRight _).symm)
  · by_cases hlow : k < 4
    · rw [byteLane_packuswb_low _ _ hlow]
      exact wordLane_of_unpacked (byteLane_punpcklbw d 0 hlow)
    · obtain ⟨j, rfl⟩ : ∃ j, k = j + 4 := ⟨k - 4, by omega⟩
      rw [byteLane_packuswb_high _ _ (by omega), Nat.add_comm]
      exact wordLane_of_unpacked (byteLane_punpckhbw d 0 (by omega))

/-! ## Operands -/

/-- Settles O39, by the addressing form and its base. -/
theorem operandSegment : Obligations.OperandSegment := by
  intro S a
  refine ⟨rfl, ?_⟩
  cases a with
  | a16 b d => cases b <;> rfl
  | abs16 o => rfl
  | a32 b d => cases b <;> rfl
  | abs32 o => rfl
  | sib b sc i d => cases b <;> rfl
  | sibNoBase sc i o => rfl

section
variable (s : State)

theorem toNat_reg16 (r : Reg) : ((s.reg16 r).toNat : Int) = ((s.reg r).toNat : Int) % 2 ^ 16 := by
  simp [State.reg16, BitVec.extractLsb'_toNat]

/-- A signed number extended to `w` bits is its value modulo `2 ^ w`. -/
theorem toNat_signExtend {n w : Nat} (x : BitVec n) (h : n ≤ w) : ((x.signExtend w).toNat : Int) = x.toInt % 2 ^ w := by
  have hmod : ((2 ^ w : Nat) : Int) = 2 ^ w := by norm_cast
  rw [← BitVec.toInt_signExtend_of_le h, BitVec.toInt_eq_toNat_bmod, ← hmod, Int.bmod_emod]
  exact_mod_cast (Nat.mod_eq_of_lt (x.signExtend w).isLt).symm

theorem toNat_disp16 (d : Disp16) : ((Disp16.value d).toNat : Int) = disp16Int d % 2 ^ 16 := by
  cases d with
  | none => rfl
  | d8 d => exact toNat_signExtend d (by omega)
  | d16 d => simp only [Disp16.value, disp16Int]; omega

theorem toNat_disp32 (d : Disp32) : ((Disp32.value d).toNat : Int) = disp32Int d % 2 ^ 32 := by
  cases d with
  | none => rfl
  | d8 d => exact toNat_signExtend d (by omega)
  | d32 d => simp only [Disp32.value, disp32Int]; omega

/-- The scaled index as a number: no index where the register is ESP (30_encoding.md R93). -/
def indexInt (scale : BitVec 2) (index : Reg) : Int :=
  if index = .esp then 0 else (s.reg index).toNat * 2 ^ scale.toNat

theorem toNat_indexValue (scale : BitVec 2) (index : Reg) :
    ((indexValue s scale index).toNat : Int) = indexInt s scale index % 2 ^ 32 := by
  have hshift : ((s.reg index <<< scale.toNat).toNat : Int) = (s.reg index).toNat * 2 ^ scale.toNat % 2 ^ 32 := by
    simp [BitVec.toNat_shiftLeft, Nat.shiftLeft_eq]
  cases index with
  | esp => rfl
  | _ => exact hshift

/-- The registers of a 16-bit form, summed as numbers. -/
def base16Int : Base16 → Int
  | .bxsi => (s.reg16 .ebx).toNat + (s.reg16 .esi).toNat
  | .bxdi => (s.reg16 .ebx).toNat + (s.reg16 .edi).toNat
  | .bpsi => (s.reg16 .ebp).toNat + (s.reg16 .esi).toNat
  | .bpdi => (s.reg16 .ebp).toNat + (s.reg16 .edi).toNat
  | .si => (s.reg16 .esi).toNat
  | .di => (s.reg16 .edi).toNat
  | .bp => (s.reg16 .ebp).toNat
  | .bx => (s.reg16 .ebx).toNat

theorem toNat_base16Value (b : Base16) : ((base16Value s b).toNat : Int) = base16Int s b % 2 ^ 16 := by
  cases b <;> simp only [base16Value, base16Int, BitVec.toNat_add] <;> omega

theorem toNat_effectiveAddr_a16 (b : Base16) (d : Disp16) :
    ((effectiveAddr s (.a16 b d)).toNat : Int) = (base16Int s b + disp16Int d) % 2 ^ 16 := by
  have hb := toNat_base16Value s b
  have hd := toNat_disp16 d
  simp only [effectiveAddr, BitVec.toNat_setWidth, BitVec.toNat_add]
  omega

end

/-- Settles O40, by the addressing form: each summand is its number modulo the width. -/
theorem effectiveAddressWidths : Obligations.EffectiveAddressWidths := by
  intro s a index half
  cases a with
  | a16 b d =>
    rw [toNat_effectiveAddr_a16]
    cases b <;> simp only [base16Int, toNat_reg16] <;> rfl
  | abs16 o => simp only [effectiveAddr, BitVec.toNat_setWidth]; omega
  | a32 b d =>
    have hd := toNat_disp32 d
    simp only [effectiveAddr, BitVec.toNat_add]
    omega
  | abs32 o => rfl
  | sib b sc i d =>
    have hd := toNat_disp32 d
    have hi : _ = index sc i % 2 ^ 32 := toNat_indexValue s sc i
    simp only [effectiveAddr, BitVec.toNat_add]
    omega
  | sibNoBase sc i o =>
    have hi : _ = index sc i % 2 ^ 32 := toNat_indexValue s sc i
    simp only [effectiveAddr, BitVec.toNat_add]
    omega

end Sys2Proof.Machine
end

section
/-! The stack pointer's arithmetic (45_pop.md R201, 49_push_pxor.md R321), and how an instruction made of a shared rule
ends. -/

namespace Sys2Proof.Machine

/-! ## Words of a value -/

/-- The bytes of a value depend on its low bits alone. -/
theorem leBytes_congr {n : Nat} {v w : Qword} (h : ∀ i, i < 8 * n → v.getLsbD i = w.getLsbD i) :
    leBytes n v = leBytes n w := by
  refine List.ext_getElem (by simp) fun k hv hw => ?_
  rw [getElem_leBytes, getElem_leBytes]
  rw [leBytes_length] at hv
  apply BitVec.eq_of_getLsbD_eq
  intro i hi
  rw [BitVec.getLsbD_extractLsb', BitVec.getLsbD_extractLsb', h _ (by omega)]

theorem extractLsb'_setWidth_word (x : Word) : (x.setWidth 32 : Dword).extractLsb' 0 16 = x := by
  apply BitVec.eq_of_getLsbD_eq
  intro i hi
  simp [hi]
  omega

theorem extractLsb'_setWidth_item (q : Qword) : (q.setWidth 32 : Dword).extractLsb' 0 16 = q.setWidth 16 := by
  apply BitVec.eq_of_getLsbD_eq
  intro i hi
  simp [hi]
  omega

/-- A doubleword is its two halves. -/
theorem append_halves (x : Dword) : (x.extractLsb' 16 16 ++ x.extractLsb' 0 16 : Dword) = x := by
  apply BitVec.eq_of_getLsbD_eq
  intro i hi
  simp only [BitVec.getLsbD_append, BitVec.getLsbD_extractLsb']
  split
  · simp [*]
  · simp [show i - 16 < 16 by omega, show 16 + (i - 16) = i by omega]

/-! ## Moving the stack pointer -/

section
variable (s t : State) (n m : Nat)

theorem esp_setSp_spPlus : (s.setSp (s.spPlus n)).reg .esp = espPlus s n := by
  cases h : s.stack32 <;> simp [State.setSp, State.spPlus, espPlus, h, extractLsb'_setWidth_word]

theorem esp_setSp_spMinus : (s.setSp (s.spMinus n)).reg .esp = espMinus s n := by
  cases h : s.stack32 <;> simp [State.setSp, State.spMinus, espMinus, h, extractLsb'_setWidth_word]

/-- The registers after the stack pointer has moved up. -/
theorem reg_setSp_spPlus (x : Reg) : (s.setSp (s.spPlus n)).reg x = if x = .esp then espPlus s n else s.reg x := by
  split
  · subst x
    exact esp_setSp_spPlus s n
  · exact State.reg_setSp_of_ne s _ ‹_›

theorem sp_eq_spPlus_zero : s.sp = s.spPlus 0 := by
  cases h : s.stack32 <;> simp [State.sp, State.spPlus, h]

theorem sp_eq_spMinus_zero : s.sp = s.spMinus 0 := by
  cases h : s.stack32 <;> simp [State.sp, State.spMinus, h]

theorem espPlus_zero : espPlus s 0 = s.reg .esp := by
  cases h : s.stack32 <;> simp [espPlus, h, State.reg16, append_halves]

theorem espMinus_zero : espMinus s 0 = s.reg .esp := by
  cases h : s.stack32 <;> simp [espMinus, h, State.reg16, append_halves]

variable {s t n}

/-- A stack pointer that has moved up moves on from there. -/
theorem spPlus_of_esp (hs : t.stack32 = s.stack32) (h : t.reg .esp = espPlus s n) : t.spPlus m = s.spPlus (n + m) := by
  cases hst : s.stack32
  · simp only [State.spPlus, State.reg16, hs, h, espPlus, hst, Bool.false_eq_true, if_false, low_append,
      BitVec.add_assoc, BitVec.ofNat_add]
  · simp only [State.spPlus, hs, h, espPlus, hst, if_true, BitVec.add_assoc, BitVec.ofNat_add]

theorem espPlus_of_esp (hs : t.stack32 = s.stack32) (h : t.reg .esp = espPlus s n) : espPlus t m = espPlus s (n + m) := by
  cases hst : s.stack32
  · simp only [State.reg16, hs, h, espPlus, hst, Bool.false_eq_true, if_false, low_append, high_append,
      BitVec.add_assoc, BitVec.ofNat_add]
  · simp only [hs, h, espPlus, hst, if_true, BitVec.add_assoc, BitVec.ofNat_add]

theorem spMinus_of_esp (hs : t.stack32 = s.stack32) (h : t.reg .esp = espMinus s n) : t.spMinus m = s.spMinus (n + m) := by
  cases hst : s.stack32
  · simp only [State.spMinus, State.reg16, hs, h, espMinus, hst, Bool.false_eq_true, if_false, low_append,
      BitVec.ofNat_add, sub_sub]
  · simp only [State.spMinus, hs, h, espMinus, hst, if_true, BitVec.ofNat_add, sub_sub]

theorem espMinus_of_esp (hs : t.stack32 = s.stack32) (h : t.reg .esp = espMinus s n) :
    espMinus t m = espMinus s (n + m) := by
  cases hst : s.stack32
  · simp only [State.reg16, hs, h, espMinus, hst, Bool.false_eq_true, if_false, low_append, high_append,
      BitVec.ofNat_add, sub_sub]
  · simp only [hs, h, espMinus, hst, if_true, BitVec.ofNat_add, sub_sub]

end

/-! ## How an instruction ends -/

section
variable {i : Instr} {b : Bool} {s u : State} {r : Res State}

theorem settle_ok (h : r = .ok u) : settle i b s r = .next (s.retire i b u) :=
  settle_next.2 (.inl ⟨u, h, rfl⟩)

theorem settle_shutdown (h : r = .error .shutdown) : settle i b s r = .next { s with shutdown := true } :=
  settle_next.2 (.inr ⟨h, rfl⟩)

/-- A rule that changes registers and memory alone keeps the rest. -/
theorem restKept_retire (h : u = { s with regs := u.regs, mem := u.mem }) : RestKept i s (s.retire i false u) := by
  generalize u.regs = g at h
  generalize u.mem = m at h
  subst h
  rfl

end

end Sys2Proof.Machine
end

section
/-! PUSH, PUSHF and the start of PUSHA (49_push_pxor.md R322 to R327, R332, R340). -/

namespace Sys2Proof.Machine

/-! ## One push -/

section
variable {sz : OpSize} {v : Dword} {s u : State} {ps : List Nat}

/-- What a push stores and moves. -/
theorem push_of_canPush (h : CanPush sz s ps) (v : Dword) :
    push sz v s = .ok ((s.setMem (s.mem.store ps (leBytes (opBytes sz) (v.setWidth 64)))).setSp
      (s.spMinus (opBytes sz))) :=
  push_ok.2 ⟨h.1, _, memWrite_ok.2 ⟨ps, h.2, rfl⟩, rfl⟩

/-- An instruction that is one push, using `free` free values, leaves what `Pushed` says. -/
theorem pushed_of_canPush {i : Instr} {free : Nat} {w : Dword} (h : CanPush sz s ps) (hu : push sz v s = .ok u)
    (hw : ∀ j, j < 8 * opBytes sz → v.getLsbD j = w.getLsbD j) :
    Pushed i sz w free s ps (s.retire i false { u with freeCount := s.freeCount + free }) := by
  have hbytes : leBytes (opBytes sz) (v.setWidth 64) = leBytes (opBytes sz) (w.setWidth 64) :=
    leBytes_congr fun j hj => by simp only [BitVec.getLsbD_setWidth, hw j hj]
  cases (push_of_canPush h v).symm.trans hu
  refine ⟨?_, ?_, fun r hr => ?_, fun hd => ?_, fun a ha => ?_⟩
  · apply State.ext <;> simp
  · exact esp_setSp_spMinus (s.setMem _) (opBytes sz)
  · exact State.reg_setSp_of_ne (s.setMem _) _ hr
  · have hlen : ps.length = (leBytes (opBytes sz) (v.setWidth 64)).length := by rw [access_length h.2, leBytes_length]
    simpa only [State.retire_mem, State.setSp_mem, State.setMem_mem, hbytes] using Memory.map_read_store ps _ s.mem hd hlen
  · simpa using Memory.read_store_of_not_mem ps _ s.mem a ha

/-- An instruction whose rule is one push completes as `Pushed` says. -/
theorem exec_pushed {i : Instr} {w : Dword} (form : exec i s = settle i false s (push sz v s)) (h : CanPush sz s ps)
    (hw : ∀ j, j < 8 * opBytes sz → v.getLsbD j = w.getLsbD j) : ∃ t, exec i s = .next t ∧ Pushed i sz w 0 s ps t := by
  have hu := push_of_canPush h v
  refine ⟨_, form.trans (settle_ok hu), ?_⟩
  have := pushed_of_canPush (i := i) (free := 0) h hu hw
  rwa [Nat.add_zero, ← congrArg State.freeCount (push_frame hu)] at this

/-- An instruction whose rule is one push raises what its store raises. -/
theorem raises_of_push {i : Instr} {e : Exn} (form : exec i s = settle i false s (push sz v s)) (h : PushRaises sz s e) :
    Raises i s e :=
  form.trans (settle_raise (push_raise.2 h))

/-- An instruction whose rule is one push shuts the processor down where the stack pointer is 1. -/
theorem shutsDown_of_push {i : Instr} (form : exec i s = settle i false s (push sz v s)) (hm : s.mode = .real)
    (hsp : s.sp = 1) : ShutsDown i s :=
  form.trans (settle_shutdown (push_shutdown.2 ⟨hm, hsp⟩))

end

/-! ## PUSH r -/

/-- The opcode of PUSH r holds the register's number. -/
theorem encode_pushR (r : Reg) :
    encode true (.pushR32 r) = [0x50 + r.toBits.setWidth 8] ∧ encode false (.pushR16 r) = [0x50 + r.toBits.setWidth 8] := by
  cases r <;> exact ⟨rfl, rfl⟩

/-- Settles O52: by either opcode the rule is one push of the register. -/
theorem pushRegister : Obligations.PushRegister := by
  intro r s ps
  refine ⟨encode_pushR r, fun h => ⟨exec_pushed rfl h fun _ _ => rfl, exec_pushed rfl h fun _ _ => rfl⟩,
    fun h => ⟨exec_pushed rfl h fun _ _ => rfl, exec_pushed rfl h fun _ _ => rfl⟩,
    fun e h => ⟨raises_of_push rfl h, raises_of_push rfl h⟩, fun e h => ⟨raises_of_push rfl h, raises_of_push rfl h⟩⟩

/-! ## PUSH m -/

/-- PUSH of a memory operand that is read is a push of it. -/
theorem pushRm_of_read {sz : OpSize} {m : MemOp} {s : State} {q : Qword}
    (h : memRead .integer (MemOp.segment m) (effectiveAddr s m.addr) (opBytes sz) s = .ok q) :
    pushRm sz (.mem m) s = push sz (q.setWidth 32) s := by
  simp only [pushRm, pushSource, h]
  rfl

/-- PUSH of a memory operand, of either size: `mk` is the instruction. -/
theorem pushMemory_of_form {sz : OpSize} {mk : RmSrc → Instr}
    (form : ∀ src s, exec (mk src) s = settle (mk src) false s (pushRm sz src s)) (m : MemOp) (s : State) :
    (∀ q ps, memRead .integer (MemOp.segment m) (effectiveAddr s m.addr) (opBytes sz) s = .ok q → CanPush sz s ps →
      ∃ t, exec (mk (.mem m)) s = .next t ∧ Pushed (mk (.mem m)) sz (q.setWidth 32) 0 s ps t) ∧
    (∀ e, memRead .integer (MemOp.segment m) (effectiveAddr s m.addr) (opBytes sz) s = .error (.raise e) →
      Raises (mk (.mem m)) s e) ∧
    ∀ q e, memRead .integer (MemOp.segment m) (effectiveAddr s m.addr) (opBytes sz) s = .ok q → PushRaises sz s e →
      Raises (mk (.mem m)) s e := by
  refine ⟨fun q ps hq h => ?_, fun e he => (form _ s).trans (settle_raise (pushRm_raise_read he)), fun q e hq h => ?_⟩
  · exact exec_pushed ((form _ s).trans (congrArg _ (pushRm_of_read hq))) h fun _ _ => rfl
  · exact raises_of_push ((form _ s).trans (congrArg _ (pushRm_of_read hq))) h

/-- Settles O53: the rule is the read and then one push. -/
theorem pushMemory : Obligations.PushMemory :=
  ⟨pushMemory_of_form fun _ _ => rfl, pushMemory_of_form fun _ _ => rfl⟩

/-! ## PUSH imm -/

/-- The low word of a sign-extended imm8 is the imm8 sign-extended to a word. -/
theorem imm8Value_low (ib : Byte) {j : Nat} (hj : j < 8 * opBytes .w16) :
    (imm8Value ib).getLsbD j = ((ib.signExtend 16).setWidth 32 : Dword).getLsbD j := by
  have hj : j < 16 := hj
  simp [imm8Value, BitVec.getElem_signExtend, hj, show j < 32 by omega]

/-- Settles O54: the rule is one push, of which only the low word is stored in the 16-bit forms. -/
theorem pushImmediate : Obligations.PushImmediate := by
  intro s ps
  refine ⟨fun ib => rfl, fun h => ⟨fun ib => exec_pushed rfl h fun _ _ => rfl, fun id => exec_pushed rfl h fun _ _ => rfl⟩,
    fun h => ⟨fun ib => exec_pushed rfl h fun _ => imm8Value_low ib, fun iw => exec_pushed rfl h fun _ _ => rfl⟩,
    fun e h => ⟨fun ib => raises_of_push rfl h, fun id => raises_of_push rfl h⟩,
    fun e h => ⟨fun ib => raises_of_push rfl h, fun iw => raises_of_push rfl h⟩⟩

/-! ## PUSH sreg -/

/-- PUSH of a segment register: `mk` is the instruction. -/
theorem pushSegment_of_form {mk : OpSize → Instr} {S : SReg}
    (form : ∀ sz s, exec (mk sz) s = settle (mk sz) false s (pushSeg sz S s)) (s : State) (ps : List Nat) :
    (CanPush .w16 s ps → ∃ t, exec (mk .w16) s = .next t ∧ Pushed (mk .w16) .w16 ((s.seg S).sel.setWidth 32) 0 s ps t) ∧
    (CanPush .w32 s ps → ∃ t, exec (mk .w32) s = .next t ∧
      Pushed (mk .w32) .w32 (Config.pushSregUpper s ++ (s.seg S).sel) 1 s ps t) ∧
    ∀ sz e, PushRaises sz s e → Raises (mk sz) s e := by
  refine ⟨fun h => ?_, fun h => ?_, fun sz e h => ?_⟩
  · have hpush : pushSeg .w16 S s = push .w16 (pushSegValue .w16 S s) s := by
      unfold pushSeg
      cases push .w16 (pushSegValue .w16 S s) s <;> rfl
    exact exec_pushed ((form .w16 s).trans (congrArg _ hpush)) h fun _ _ => rfl
  · have hu := push_of_canPush h (pushSegValue .w32 S s)
    refine ⟨_, (form .w32 s).trans (settle_ok (Res.bind_ok.2 ⟨_, hu, rfl⟩)), ?_⟩
    have := pushed_of_canPush (i := mk .w32) (free := 1) h hu fun _ _ => rfl
    rwa [← congrArg State.freeCount (push_frame hu)] at this
  · exact (form sz s).trans (settle_raise (Res.bind_error.2 (.inl (push_raise.2 h))))

/-- Settles O55: the rule is one push, after which the 32-bit form counts its free value. -/
theorem pushSegment : Obligations.PushSegment :=
  ⟨pushSegment_of_form fun _ _ => rfl, pushSegment_of_form fun _ _ => rfl, pushSegment_of_form fun _ _ => rfl,
    pushSegment_of_form fun _ _ => rfl, pushSegment_of_form fun _ _ => rfl, pushSegment_of_form fun _ _ => rfl⟩

/-! ## PUSHF and POPF in virtual-8086 mode -/

/-- The IOPL is below 3 when it is not 3. -/
theorem iopl_lt_three {x : BitVec 2} : x < 3 ↔ x ≠ 3 := by
  revert x
  decide

section
variable {sz : OpSize} {s : State}

theorem popFlags_v86 (h : s.mode = .v86 ∧ flagIOPL s.eflags ≠ 3) : popFlags sz s = .error (.raise (.gp (some 0))) :=
  if_pos ⟨h.1, iopl_lt_three.2 h.2⟩

theorem pushFlags_v86 (h : s.mode = .v86 ∧ flagIOPL s.eflags ≠ 3) : pushFlags sz s = .error (.raise (.gp (some 0))) :=
  if_pos ⟨h.1, iopl_lt_three.2 h.2⟩

theorem pushFlags_eq_push (h : ¬(s.mode = .v86 ∧ flagIOPL s.eflags ≠ 3)) :
    pushFlags sz s = push sz (pushfImage sz s.eflags) s :=
  if_neg fun hc => h ⟨hc.1, iopl_lt_three.1 hc.2⟩

end

/-- Settles O51: the four rules begin with this test. -/
theorem flagsInstructionsNeedIopl3InV86 : Obligations.FlagsInstructionsNeedIopl3InV86 := fun _ hm hi =>
  ⟨settle_raise (popFlags_v86 ⟨hm, hi⟩), settle_raise (popFlags_v86 ⟨hm, hi⟩), settle_raise (pushFlags_v86 ⟨hm, hi⟩),
    settle_raise (pushFlags_v86 ⟨hm, hi⟩)⟩

/-- The low word of the image is that of EFLAGS. -/
theorem pushfImage_low (f : Dword) {j : Nat} (hj : j < 8 * opBytes .w16) :
    (pushfImage .w16 f).getLsbD j = ((f.setWidth 16).setWidth 32 : Dword).getLsbD j := by
  have hj : j < 16 := hj
  have hmask : (0x0000FFFF : Dword).getLsbD j = true := by
    revert j
    decide
  rw [pushfImage, BitVec.getLsbD_and, hmask]
  simp [hj, show j < 32 by omega]

/-- Settles O56: past the test of virtual-8086 mode the rule is one push of the image. -/
theorem pushFlagsImage : Obligations.PushFlagsImage := by
  intro s
  have form16 : ¬(s.mode = .v86 ∧ flagIOPL s.eflags ≠ 3) →
      exec .pushf s = settle .pushf false s (push .w16 (pushfImage .w16 s.eflags) s) :=
    fun h => congrArg (settle .pushf false s) (pushFlags_eq_push h)
  have form32 : ¬(s.mode = .v86 ∧ flagIOPL s.eflags ≠ 3) →
      exec .pushfd s = settle .pushfd false s (push .w32 (pushfImage .w32 s.eflags) s) :=
    fun h => congrArg (settle .pushfd false s) (pushFlags_eq_push h)
  exact ⟨fun h => ⟨settle_raise (pushFlags_v86 h), settle_raise (pushFlags_v86 h)⟩,
    fun h ps => ⟨fun hp => exec_pushed (form16 h) hp fun _ => pushfImage_low _,
      fun hp => exec_pushed (form32 h) hp fun _ _ => rfl⟩,
    fun e h => ⟨raises_of_push (form16 h), raises_of_push (form32 h)⟩⟩

/-! ## The start test of PUSHA and PUSHAD (R332) -/

section
variable {s : State}

theorem pushAllStart_real_low (hm : s.mode = .real) (h : s.sp.toNat ∈ [1, 3, 5]) :
    pushAllStart s = .error .shutdown := by
  simp only [List.mem_cons, List.not_mem_nil, or_false] at h
  simp only [pushAllStart, hm, h, if_true]

theorem pushAllStart_real_high (hm : s.mode = .real) (h : s.sp.toNat ∈ [7, 9, 11, 13, 15]) :
    pushAllStart s = .error (.raise (.gp none)) := by
  simp only [List.mem_cons, List.not_mem_nil, or_false] at h
  have hlow : ¬(s.sp.toNat = 1 ∨ s.sp.toNat = 3 ∨ s.sp.toNat = 5) := by omega
  simp only [pushAllStart, hm, h, hlow, if_true, if_false]

theorem pushAllStart_v86 (hm : s.mode = .v86) (h : s.sp.toNat ∈ [1, 3, 5, 7, 9, 11, 13, 15]) :
    pushAllStart s = .error (.raise (.gp (some 0))) := by
  simp only [List.mem_cons, List.not_mem_nil, or_false] at h
  simp only [pushAllStart, hm, h, if_true]

theorem pushAllStart_ok (h : s.mode = .prot ∨ s.sp.toNat ∉ [1, 3, 5, 7, 9, 11, 13, 15]) : pushAllStart s = .ok () := by
  simp only [List.mem_cons, List.not_mem_nil, or_false] at h
  cases hm : s.mode with
  | prot => simp only [pushAllStart, hm]
  | real =>
    have h := h.resolve_left (by simp [hm])
    have hlow : ¬(s.sp.toNat = 1 ∨ s.sp.toNat = 3 ∨ s.sp.toNat = 5) := by omega
    have hhigh : ¬(s.sp.toNat = 7 ∨ s.sp.toNat = 9 ∨ s.sp.toNat = 11 ∨ s.sp.toNat = 13 ∨ s.sp.toNat = 15) := by omega
    simp only [pushAllStart, hm, hlow, hhigh, if_false]
  | v86 =>
    have h := h.resolve_left (by simp [hm])
    simp only [pushAllStart, hm, h, if_false]

theorem pushAll_of_start_error {sz : OpSize} {x : Stop} (h : pushAllStart s = .error x) : pushAll sz s = .error x :=
  Res.bind_error.2 (.inl h)

theorem pushAll_of_start_ok {sz : OpSize} (h : s.mode = .prot ∨ s.sp.toNat ∉ [1, 3, 5, 7, 9, 11, 13, 15]) :
    pushAll sz s = pushList sz (pushAllOrder.map (s.regSz sz)) s := by
  rw [pushAll, pushAllStart_ok h]
  rfl

end

/-- Both sizes begin with the same test. -/
theorem pushAllStartTest_of_form {sz : OpSize} {i : Instr} (form : ∀ s, exec i s = settle i false s (pushAll sz s))
    (s : State) :
    (s.mode = .real → s.sp.toNat ∈ [1, 3, 5] → ShutsDown i s) ∧
    (s.mode = .real → s.sp.toNat ∈ [7, 9, 11, 13, 15] → Raises i s (.gp none)) ∧
    (s.mode = .v86 → s.sp.toNat ∈ [1, 3, 5, 7, 9, 11, 13, 15] → Raises i s (.gp (some 0))) ∧
    (s.mode = .prot ∨ s.sp.toNat ∉ [1, 3, 5, 7, 9, 11, 13, 15] →
      exec i s = settle i false s (pushList sz (pushAllOrder.map (s.regSz sz)) s)) :=
  ⟨fun hm h => (form s).trans (settle_shutdown (pushAll_of_start_error (pushAllStart_real_low hm h))),
    fun hm h => (form s).trans (settle_raise (pushAll_of_start_error (pushAllStart_real_high hm h))),
    fun hm h => (form s).trans (settle_raise (pushAll_of_start_error (pushAllStart_v86 hm h))),
    fun h => (form s).trans (congrArg _ (pushAll_of_start_ok h))⟩

/-- Settles O58, by the mode and the listed values. -/
theorem pushAllStartTest : Obligations.PushAllStartTest :=
  ⟨pushAllStartTest_of_form fun _ => rfl, pushAllStartTest_of_form fun _ => rfl⟩

/-! ## Shutdown (R327) -/

/-- PUSH of a segment register shuts the processor down where the stack pointer is 1. -/
theorem shutsDown_of_pushSeg {i : Instr} {sz : OpSize} {S : SReg} {s : State}
    (form : exec i s = settle i false s (pushSeg sz S s)) (hm : s.mode = .real) (hsp : s.sp = 1) : ShutsDown i s :=
  form.trans (settle_shutdown (Res.bind_error.2 (.inl (push_shutdown.2 ⟨hm, hsp⟩))))

/-- Settles O59: the stack pointer 1 stops each push and the start test of PUSHA; a step never sets `shutdown` otherwise. -/
theorem shutdownForLackOfStack : Obligations.ShutdownForLackOfStack := by
  refine ⟨fun s hm hsp => ?_, fun i s t h hs ht => ?_, fun s => (stepRefusesWhatDoesNotDecode s).1⟩
  · have hflags : ¬(s.mode = .v86 ∧ flagIOPL s.eflags ≠ 3) := fun h => by simp [hm] at h
    have hstart : s.sp.toNat ∈ [1, 3, 5] := by simp [hsp]
    have hpush : ∀ {i sz v}, exec i s = settle i false s (push sz v s) → ShutsDown i s :=
      fun form => shutsDown_of_push form hm hsp
    have hseg : ∀ {i sz S}, exec i s = settle i false s (pushSeg sz S s) → ShutsDown i s :=
      fun form => shutsDown_of_pushSeg form hm hsp
    exact ⟨fun r => ⟨hpush rfl, hpush rfl, hpush rfl, hpush rfl⟩,
      fun m q hq => hpush (congrArg (settle (.pushRm16 (.mem m)) false s) (pushRm_of_read hq)),
      fun m q hq => hpush (congrArg (settle (.pushRm32 (.mem m)) false s) (pushRm_of_read hq)),
      fun sz ib => hpush rfl, fun iw => hpush rfl, fun id => hpush rfl, fun sz => ⟨hseg rfl, hseg rfl, hseg rfl, hseg rfl, hseg rfl, hseg rfl⟩,
      hpush (congrArg (settle .pushf false s) (pushFlags_eq_push hflags)),
      hpush (congrArg (settle .pushfd false s) (pushFlags_eq_push hflags)),
      (pushAllStartTest.1 s).1 hm hstart, (pushAllStartTest.2 s).1 hm hstart⟩
  · rcases exec_next h with ⟨u, hkept, rfl⟩ | hshut
    · have hu : u.shutdown = true := ht
      rw [hkept.shutdown, hs] at hu
      cases hu
    · exact hshut

end Sys2Proof.Machine
end

section
/-! POP, and POPF (45_pop.md R202 to R215, R230 to R236). -/

namespace Sys2Proof.Machine

/-! ## One pop -/

section
variable {sz : OpSize} {s : State} {q : Qword}

theorem pop_of_read (h : memRead .integer .ss s.sp (opBytes sz) s = .ok q) :
    pop sz s = .ok (q.setWidth 32, s.setSp (s.spPlus (opBytes sz))) :=
  pop_ok.2 ⟨q, h, rfl, rfl⟩

/-- A rule that begins with a pop raises what the pop's read raises. -/
theorem bind_pop_raise {e : Exn} {f : Dword × State → Res State}
    (h : memRead .integer .ss s.sp (opBytes sz) s = .error (.raise e)) : (pop sz s >>= f) = .error (.raise e) :=
  Res.bind_error.2 (.inl (pop_raise.2 h))

/-- A rule that begins with a pop goes on with the item. -/
theorem bind_pop_of_read {f : Dword × State → Res State} (h : memRead .integer .ss s.sp (opBytes sz) s = .ok q) :
    (pop sz s >>= f) = f (q.setWidth 32, s.setSp (s.spPlus (opBytes sz))) := by
  rw [pop_of_read h]
  rfl

/-- A change of the stack pointer changes registers alone. -/
theorem State.setSp_frame (s : State) (v : Dword) : s.setSp v = { s with regs := (s.setSp v).regs } := by
  apply State.ext <;> simp

end

/-! ## POP r (R202, R203) -/

/-- What a register holds after an item is popped into it: the 16-bit form keeps bits 31:16 of what it held. -/
def popValue (sz : OpSize) (old : Dword) (q : Qword) : Dword :=
  match sz with
  | .w16 => old.extractLsb' 16 16 ++ q.setWidth 16
  | .w32 => q.setWidth 32

theorem reg_setRegSz (s : State) (sz : OpSize) (r x : Reg) (q : Qword) :
    (s.setRegSz sz r (q.setWidth 32)).reg x = if x = r then popValue sz (s.reg r) q else s.reg x := by
  cases sz with
  | w16 => simp only [State.setRegSz, State.reg_setReg16, popValue, extractLsb'_setWidth_item]
  | w32 => simp only [State.setRegSz, State.reg_setReg, popValue]

section
variable {sz : OpSize} {r : Reg} {s : State} {q : Qword}

theorem popReg_of_read (h : memRead .integer .ss s.sp (opBytes sz) s = .ok q) :
    popReg sz r s = .ok ((s.setSp (s.spPlus (opBytes sz))).setRegSz sz r (q.setWidth 32)) :=
  bind_pop_of_read h

/-- An instruction whose rule is POP r completes with the item in the register and the stack pointer moved. -/
theorem exec_popReg {i : Instr} (form : exec i s = settle i false s (popReg sz r s))
    (h : memRead .integer .ss s.sp (opBytes sz) s = .ok q) :
    ∃ t, exec i s = .next t ∧ RestKept i s t ∧ t.mem = s.mem ∧
      t.reg r = popValue sz (if r = .esp then espPlus s (opBytes sz) else s.reg r) q ∧
      ∀ x, x ≠ r → t.reg x = if x = .esp then espPlus s (opBytes sz) else s.reg x := by
  refine ⟨_, form.trans (settle_ok (popReg_of_read h)), restKept_retire ?_, by simp, ?_, fun x hx => ?_⟩
  · apply State.ext <;> simp
  · exact (reg_setRegSz _ sz r r q).trans ((if_pos rfl).trans (by rw [reg_setSp_spPlus]))
  · exact (reg_setRegSz _ sz r x q).trans ((if_neg hx).trans (reg_setSp_spPlus s _ x))

end

/-- The opcode of POP r holds the register's number. -/
theorem encode_popR (r : Reg) :
    encode true (.popR32 r) = [0x58 + r.toBits.setWidth 8] ∧ encode false (.popR16 r) = [0x58 + r.toBits.setWidth 8] := by
  cases r <;> exact ⟨rfl, rfl⟩

/-- Settles O41: the register write comes after the stack pointer has moved. -/
theorem popRegister : Obligations.PopRegister := by
  intro r s
  refine ⟨encode_popR r, fun q h => ?_, fun q h => ?_, fun e h => ?_, fun e h => ?_⟩
  · exact exec_popReg (sz := .w32) rfl h
  · exact exec_popReg (sz := .w16) rfl h
  · exact settle_raise (bind_pop_raise (sz := .w32) h)
  · exact settle_raise (bind_pop_raise (sz := .w16) h)

/-! ## POP m (R204, R205) -/

section
variable {sz : OpSize} {m : MemOp} {s : State} {q : Qword} {ps : List Nat}

/-- The item stored has the low bytes of what was read. -/
theorem leBytes_item (sz : OpSize) (q : Qword) :
    leBytes (opBytes sz) ((q.setWidth 32 : Dword).setWidth 64) = leBytes (opBytes sz) q := by
  have hsz : 8 * opBytes sz ≤ 32 := by cases sz <;> decide
  exact leBytes_congr fun i hi => by simp [show i < 32 by omega]; omega

/-- The state that POP m leaves before the count of free values: the stack pointer moved and the item stored. -/
def popMemState (sz : OpSize) (s : State) (ps : List Nat) (q : Qword) : State :=
  (s.setSp (s.spPlus (opBytes sz))).setMem (s.mem.store ps (leBytes (opBytes sz) q))

theorem popMem_of_access (h : memRead .integer .ss s.sp (opBytes sz) s = .ok q)
    (ha : access .integer true (MemOp.segment m) (popDestOffset sz m s (s.setSp (s.spPlus (opBytes sz)))) (opBytes sz)
      (s.setSp (s.spPlus (opBytes sz))) = .ok ps) :
    popMem sz m s =
      .ok (if popWraps sz m s then (popMemState sz s ps q).useFree else popMemState sz s ps q) := by
  refine (bind_pop_of_read h).trans ?_
  simp only [popStore, memWrite, ha, leBytes_item, State.setSp_mem]
  rfl

theorem popMem_write_raise {e : Exn} (h : memRead .integer .ss s.sp (opBytes sz) s = .ok q)
    (ha : access .integer true (MemOp.segment m) (popDestOffset sz m s (s.setSp (s.spPlus (opBytes sz)))) (opBytes sz)
      (s.setSp (s.spPlus (opBytes sz))) = .error (.raise e)) : popMem sz m s = .error (.raise e) := by
  refine (bind_pop_of_read h).trans ?_
  simp only [popStore, memWrite, ha]
  rfl

end

/-- The net effect of POP m, of either size: `mk` is the instruction. -/
theorem popMemory_of_form {sz : OpSize} {mk : MemOp → Instr}
    (form : ∀ m s, exec (mk m) s = settle (mk m) false s (popMem sz m s)) (m : MemOp) (s : State) (q : Qword)
    (ps : List Nat) (h : memRead .integer .ss s.sp (opBytes sz) s = .ok q) :
    let p := s.setSp (s.spPlus (opBytes sz))
    access .integer true (MemOp.segment m) (popDestOffset sz m s p) (opBytes sz) p = .ok ps →
    ∃ t, exec (mk m) s = .next t ∧
      t = { s with
        regs := p.regs, mem := t.mem, pc := s.pc + BitVec.ofNat 32 (s.lengthOf (mk m)), inhibit := false,
        freeCount := t.freeCount } ∧
      (popWraps sz m s = false → t.freeCount = s.freeCount ∧ popDestOffset sz m s p = effectiveAddr p m.addr) ∧
      t.reg .esp = espPlus s (opBytes sz) ∧ (∀ x, x ≠ .esp → t.reg x = s.reg x) ∧
      (ps.Nodup → ps.map t.mem.read = leBytes (opBytes sz) q) ∧ ∀ a, a ∉ ps → t.mem.read a = s.mem.read a := by
  intro p ha
  obtain ⟨u, hu, hregs, hmem, hrest, hfree⟩ : ∃ u, popMem sz m s = .ok u ∧ u.regs = p.regs ∧
      u.mem = s.mem.store ps (leBytes (opBytes sz) q) ∧ u = { s with regs := u.regs, mem := u.mem, freeCount := u.freeCount } ∧
      (popWraps sz m s = false → u.freeCount = s.freeCount) := by
    refine ⟨_, popMem_of_access h ha, ?_⟩
    cases popWraps sz m s with
    | true => exact ⟨rfl, rfl, by apply State.ext <;> simp [popMemState], nofun⟩
    | false => exact ⟨rfl, rfl, by apply State.ext <;> simp [popMemState], fun _ => by simp [popMemState]⟩
  refine ⟨_, (form m s).trans (settle_ok hu), ?_, fun hw => ⟨hfree hw, ?_⟩, ?_, fun x hx => ?_, fun hd => ?_, fun a ha => ?_⟩
  · rw [← hregs]
    generalize u.regs = g at hrest
    generalize u.mem = g' at hrest
    generalize u.freeCount = g'' at hrest
    subst hrest
    rfl
  · rw [popDestOffset, hw]
    rfl
  · exact (congrArg (·.get .esp) hregs).trans (esp_setSp_spPlus s _)
  · exact (congrArg (·.get x) hregs).trans (State.reg_setSp_of_ne s _ hx)
  · rw [State.retire_mem, hmem]
    exact Memory.map_read_store _ _ _ hd (by rw [access_length ha, leBytes_length])
  · rw [State.retire_mem, hmem]
    exact Memory.read_store_of_not_mem _ _ _ _ ha

/-- Settles O42: the rule is a pop, then the address, then one store. -/
theorem popMemory : Obligations.PopMemory :=
  ⟨⟨fun _ _ _ => ⟨fun h => settle_raise (bind_pop_raise h), fun _ h ha => settle_raise (popMem_write_raise h ha)⟩,
      fun _ _ _ => ⟨fun h => settle_raise (bind_pop_raise h), fun _ h ha => settle_raise (popMem_write_raise h ha)⟩⟩,
    popMemory_of_form fun _ _ => rfl, popMemory_of_form fun _ _ => rfl⟩

/-! ## POP of a segment register (R210 to R215) -/

/-- The `inhibit` that a POP of a segment register leaves. -/
def popSegInhibit (S : SReg) (s : State) : Bool := if S = .ss then popSsInhibit s else false

/-- What a POP of a segment register counts: POP SS its use of `InhibitChain`. -/
def popSegCount (S : SReg) (s t : State) : State := if S = .ss then popSsCount s t else t

/-- The meaning of a POP of the segment register `S`. -/
def PopsSegment (mk : OpSize → Instr) (S : SReg) : Prop :=
  ∀ sz s, exec (mk sz) s = settle (mk sz) (popSegInhibit S s) s (popSeg sz S s >>= fun t => .ok (popSegCount S s t))

theorem popsSegment_of_form {mk : OpSize → Instr} {S : SReg} (hS : S ≠ .ss)
    (form : ∀ sz s, exec (mk sz) s = settle (mk sz) false s (popSeg sz S s)) : PopsSegment mk S := by
  intro sz s
  rw [form, popSegInhibit, if_neg hS]
  simp only [popSegCount, if_neg hS]
  cases popSeg sz S s <;> rfl

theorem popsSegment_ds : PopsSegment .popDs .ds := popsSegment_of_form (by decide) fun _ _ => rfl
theorem popsSegment_es : PopsSegment .popEs .es := popsSegment_of_form (by decide) fun _ _ => rfl
theorem popsSegment_fs : PopsSegment .popFs .fs := popsSegment_of_form (by decide) fun _ _ => rfl
theorem popsSegment_gs : PopsSegment .popGs .gs := popsSegment_of_form (by decide) fun _ _ => rfl
theorem popsSegment_ss : PopsSegment .popSs .ss := fun _ _ => rfl

section
variable {mk : OpSize → Instr} {S : SReg} {sz : OpSize} {s u : State} {e : Exn}

theorem PopsSegment.raise (form : PopsSegment mk S) (h : popSeg sz S s = .error (.raise e)) : Raises (mk sz) s e :=
  (form sz s).trans (settle_raise (Res.bind_error.2 (.inl h)))

/-- A POP of a segment register completes with the load's registers; `inhibit` and the count of free values are SS's. -/
theorem PopsSegment.completes (form : PopsSegment mk S) (h : popSeg sz S s = .ok u) :
    ∃ t, exec (mk sz) s = .next t ∧
      t = { s with
        regs := (s.setSp (s.spPlus (opBytes sz))).regs, segs := u.segs,
        pc := s.pc + BitVec.ofNat 32 (s.lengthOf (mk sz)), inhibit := t.inhibit, freeCount := t.freeCount } ∧
      (S ≠ .ss → t.inhibit = false ∧ t.freeCount = s.freeCount) ∧ (S = .ss → s.inhibit = false → t.inhibit = true) := by
  refine ⟨_, (form sz s).trans (settle_ok (Res.bind_ok.2 ⟨u, h, rfl⟩)), ?_, fun hS => ⟨if_neg hS, ?_⟩, fun hS hi => ?_⟩
  · obtain ⟨x, rfl, -⟩ := popSeg_frame h
    unfold popSegCount popSsCount
    split_ifs <;> apply State.ext <;> simp
  · obtain ⟨x, rfl, -⟩ := popSeg_frame h
    simp [popSegCount, hS]
  · simp [popSegInhibit, hS, popSsInhibit, hi]

/-- The load is what follows the pop. -/
theorem popSeg_of_pop {v : Dword} {p : State} (h : pop sz s = .ok (v, p)) :
    popSeg sz S s = loadSeg S (v.extractLsb' 0 16) p := by
  rw [popSeg, h]
  rfl

/-- The load goes by the mode (R211). -/
theorem loadSeg_of_mode (hS : S ≠ .cs) (sel : Word) :
    loadSeg S sel s =
      if s.mode = .prot then
        if S = .ss then loadStackSeg (Config.descLookup s.mem sel) sel s
        else loadDataSeg (Config.descLookup s.mem sel) S sel s
      else .ok (loadRealSeg S sel s) := by
  cases hm : s.mode with
  | prot => cases S <;> simp [loadSeg, hm] at hS ⊢
  | real => simp [loadSeg, hm]
  | v86 => simp [loadSeg, hm]

end

/-- What O44 says of one register. -/
theorem PopsSegment.loads {mk : OpSize → Instr} {S : SReg} (form : PopsSegment mk S) (sz : OpSize) (s : State) :
    (∀ e, pop sz s = .error (.raise e) → Raises (mk sz) s e) ∧
    ∀ (v : Dword) (p : State), pop sz s = .ok (v, p) →
      (∀ e, loadSeg S (v.extractLsb' 0 16) p = .error (.raise e) → Raises (mk sz) s e) ∧
      ∀ u, loadSeg S (v.extractLsb' 0 16) p = .ok u → ∃ t, exec (mk sz) s = .next t ∧
        t = { s with
          regs := p.regs, segs := u.segs, pc := s.pc + BitVec.ofNat 32 (s.lengthOf (mk sz)), inhibit := t.inhibit,
          freeCount := t.freeCount } ∧
        (S ≠ .ss → t.inhibit = false ∧ t.freeCount = s.freeCount) ∧
        (S = .ss → s.inhibit = false → t.inhibit = true) := by
  refine ⟨fun e h => form.raise (bind_pop_raise (pop_raise.1 h)), fun v p h => ⟨fun e he => ?_, fun u hu => ?_⟩⟩
  · exact form.raise ((popSeg_of_pop h).trans he)
  · obtain ⟨q, -, -, rfl⟩ := pop_ok.1 h
    exact form.completes ((popSeg_of_pop h).trans hu)

/-- Settles O44: the rule is a pop and then the load. -/
theorem popSegmentLoadsByMode : Obligations.PopSegmentLoadsByMode :=
  ⟨popsSegment_ds.loads, popsSegment_es.loads, popsSegment_fs.loads, popsSegment_gs.loads, popsSegment_ss.loads,
    fun _ _ _ hS => loadSeg_of_mode hS _⟩

/-- What O43 says of one register. -/
theorem PopsSegment.loads_real {mk : OpSize → Instr} {S : SReg} (form : PopsSegment mk S) (hS : S ≠ .cs) (sz : OpSize)
    (s : State) (q : Qword) (hm : s.mode ≠ .prot) (h : memRead .integer .ss s.sp (opBytes sz) s = .ok q) :
    ∃ t, exec (mk sz) s = .next t ∧
      t = { s with
        regs := t.regs, segs := t.segs, pc := s.pc + BitVec.ofNat 32 (s.lengthOf (mk sz)), inhibit := t.inhibit,
        freeCount := t.freeCount } ∧
      t.seg S =
        { sel := q.setWidth 16
          hid := { (s.seg S).hid with base := ((q.setWidth 16 : Word).setWidth 32) * 16, null := false } } ∧
      (∀ X, X ≠ S → t.seg X = s.seg X) ∧ t.reg .esp = espPlus s (opBytes sz) ∧ (∀ x, x ≠ .esp → t.reg x = s.reg x) ∧
      (S ≠ .ss → t.inhibit = false ∧ t.freeCount = s.freeCount) ∧ (S = .ss → s.inhibit = false → t.inhibit = true) := by
  have hload := loadSeg_of_mode (S := S) (s := s.setSp (s.spPlus (opBytes sz))) hS (q.setWidth 16)
  rw [State.setSp_mode, if_neg hm, ← extractLsb'_setWidth_item] at hload
  obtain ⟨t, hexec, ht, hdata, hss⟩ := form.completes ((popSeg_of_pop (pop_of_read h)).trans hload)
  have hseg : ∀ X, t.seg X = (loadRealSeg S (q.setWidth 16) (s.setSp (s.spPlus (opBytes sz)))).seg X := fun X => by
    rw [← extractLsb'_setWidth_item, ht]
    rfl
  have hreg : ∀ x, t.reg x = (s.setSp (s.spPlus (opBytes sz))).reg x := fun x => by
    rw [ht]
    rfl
  refine ⟨t, hexec, ?_, ?_, fun X hX => ?_, ?_, fun x hx => ?_, hdata, hss⟩
  · rw [ht]
  · simp [hseg, loadRealSeg, realHidden]
  · simp [hseg, loadRealSeg, hX]
  · exact (hreg _).trans (esp_setSp_spPlus s _)
  · exact (hreg x).trans (State.reg_setSp_of_ne s _ hx)

/-- Settles O43: outside protected mode the load checks nothing. -/
theorem popSegmentOutsideProtectedMode : Obligations.PopSegmentOutsideProtectedMode :=
  ⟨popsSegment_ds.loads_real (by decide), popsSegment_es.loads_real (by decide), popsSegment_fs.loads_real (by decide),
    popsSegment_gs.loads_real (by decide), popsSegment_ss.loads_real (by decide)⟩

/-! ## POPF (R230 to R237) -/

section
variable {sz : OpSize} {i : Instr} {s : State}

theorem popFlags_of_read {q : Qword} (h86 : ¬(s.mode = .v86 ∧ flagIOPL s.eflags ≠ 3))
    (h : memRead .integer .ss s.sp (opBytes sz) s = .ok q) :
    popFlags sz s =
      .ok ((s.setSp (s.spPlus (opBytes sz))).setFlags (popfFlags s.mode s.cpl sz s.eflags (q.setWidth 32))) :=
  popFlags_ok.2 ⟨fun hc => h86 ⟨hc.1, iopl_lt_three.1 hc.2⟩, q, h, rfl⟩

theorem popFlags_raise {e : Exn} (h86 : ¬(s.mode = .v86 ∧ flagIOPL s.eflags ≠ 3))
    (h : memRead .integer .ss s.sp (opBytes sz) s = .error (.raise e)) : popFlags sz s = .error (.raise e) := by
  rw [popFlags, if_neg fun hc => h86 ⟨hc.1, iopl_lt_three.1 hc.2⟩]
  exact bind_pop_raise h

/-- The table of R236: which bits come from the image `v` and which are cleared, by the mode, the level and the size. -/
theorem popfFlags_table (m : Mode) (cpl : BitVec 2) (sz : OpSize) (old v : Dword) :
    let set := fun (modify clear : Dword) =>
      popfFlags m cpl sz old v = (old &&& ~~~(modify ||| clear)) ||| (v &&& modify)
    match m, sz with
    | .v86, .w32 => set 0x00244FD5 0
    | .v86, .w16 => set 0x00004FD5 0
    | .real, .w32 => set 0x00257FD5 0x00180000
    | .real, .w16 => set 0x00007FD5 0
    | .prot, .w32 =>
      if cpl = 0 then set 0x00257FD5 0x00180000
      else if cpl ≤ flagIOPL old then set 0x00254FD5 0x00180000 else set 0x00254DD5 0x00180000
    | .prot, .w16 =>
      if cpl = 0 then set 0x00007FD5 0 else if cpl ≤ flagIOPL old then set 0x00004FD5 0 else set 0x00004DD5 0 := by
  cases m with
  | real => cases sz <;> rfl
  | v86 => cases sz <;> rfl
  | prot => cases sz <;> simp only [popfFlags, popfModify, popfClear] <;> split_ifs <;> rfl

/-- The state that POPF leaves, of either size. -/
theorem exec_popFlags (form : exec i s = settle i false s (popFlags sz s)) {q : Qword}
    (h86 : ¬(s.mode = .v86 ∧ flagIOPL s.eflags ≠ 3)) (h : memRead .integer .ss s.sp (opBytes sz) s = .ok q) :
    ∃ t, exec i s = .next t ∧
      t = { s with
        regs := t.regs, eflags := t.eflags, pc := s.pc + BitVec.ofNat 32 (s.lengthOf i), inhibit := false } ∧
      t.reg .esp = espPlus s (opBytes sz) ∧ (∀ x, x ≠ .esp → t.reg x = s.reg x) ∧
      t.eflags = popfFlags s.mode s.cpl sz s.eflags (q.setWidth 32) := by
  refine ⟨_, form.trans (settle_ok (popFlags_of_read h86 h)), ?_, esp_setSp_spPlus s _,
    fun x hx => State.reg_setSp_of_ne s _ hx, rfl⟩
  apply State.ext <;> simp

end

/-- Settles O49: the rule is a pop and then the table. -/
theorem popFlagsByMode : Obligations.PopFlagsByMode := by
  refine ⟨⟨fun s q h86 h => ?_, fun s q h86 h => ?_⟩, fun s e h86 h => settle_raise (popFlags_raise h86 h),
    fun s e h86 h => settle_raise (popFlags_raise h86 h)⟩
  · obtain ⟨t, hexec, ht, hesp, hreg, hflags⟩ := exec_popFlags (i := .popf) (sz := .w16) rfl h86 h
    refine ⟨t, hexec, ht, hesp, hreg, ?_⟩
    rw [hflags]
    exact popfFlags_table s.mode s.cpl .w16 s.eflags (q.setWidth 32)
  · obtain ⟨t, hexec, ht, hesp, hreg, hflags⟩ := exec_popFlags (i := .popfd) (sz := .w32) rfl h86 h
    refine ⟨t, hexec, ht, hesp, hreg, ?_⟩
    rw [hflags]
    exact popfFlags_table s.mode s.cpl .w32 s.eflags (q.setWidth 32)

end Sys2Proof.Machine
end

section
/-! POPA and POPAD (45_pop.md R220, R221). -/

namespace Sys2Proof.Machine

/-! ## The stack after some items have been popped -/

/-- Two changes of registers alone are a change of registers alone. -/
theorem regs_frame_trans {s t u : State} (h : t = { s with regs := t.regs }) (h' : u = { t with regs := u.regs }) :
    u = { s with regs := u.regs } := by
  generalize u.regs = g' at h'
  subst h'
  generalize t.regs = g at h
  subst h
  rfl

/-- `t` is `s` but for the registers, and its stack pointer is `k` items higher. -/
structure PoppedTo (sz : OpSize) (s : State) (k : Nat) (t : State) : Prop where
  frame : t = { s with regs := t.regs }
  esp : t.reg .esp = espPlus s (opBytes sz * k)

section
variable {sz : OpSize} {s t : State} {k : Nat}

theorem PoppedTo.refl (sz : OpSize) (s : State) : PoppedTo sz s 0 s :=
  ⟨rfl, (espPlus_zero s).symm⟩

theorem PoppedTo.stack32 (h : PoppedTo sz s k t) : t.stack32 = s.stack32 := by
  rw [h.frame]
  rfl

/-- The next item is read at `k` items above the start. -/
theorem PoppedTo.read (h : PoppedTo sz s k t) (n : Nat) :
    memRead .integer .ss t.sp n t = memRead .integer .ss (s.spPlus (opBytes sz * k)) n s := by
  rw [sp_eq_spPlus_zero, spPlus_of_esp 0 h.stack32 h.esp, Nat.add_zero, h.frame]
  exact memRead_congr rfl rfl rfl rfl rfl rfl rfl

theorem PoppedTo.espPlus_next (h : PoppedTo sz s k t) : espPlus t (opBytes sz) = espPlus s (opBytes sz * (k + 1)) :=
  espPlus_of_esp (opBytes sz) h.stack32 h.esp

/-- An item is skipped: the stack pointer alone moves. -/
theorem PoppedTo.skip (h : PoppedTo sz s k t) :
    PoppedTo sz s (k + 1) (t.setSp (t.spPlus (opBytes sz))) :=
  ⟨regs_frame_trans h.frame (State.setSp_frame _ _), (esp_setSp_spPlus t _).trans h.espPlus_next⟩

/-- An item is popped into a register other than ESP. -/
theorem PoppedTo.popReg (h : PoppedTo sz s k t) {r : Reg} (hr : r ≠ .esp) {q : Qword}
    (hq : memRead .integer .ss (s.spPlus (opBytes sz * k)) (opBytes sz) s = .ok q) :
    ∃ u, popReg sz r t = .ok u ∧ PoppedTo sz s (k + 1) u ∧ u.reg r = popValue sz (t.reg r) q ∧
      ∀ x, x ≠ r → x ≠ .esp → u.reg x = t.reg x := by
  have hu := popReg_of_read (r := r) ((h.read (opBytes sz)).trans hq)
  have hreg : ∀ x, _ = _ := fun x => reg_setRegSz (t.setSp (t.spPlus (opBytes sz))) sz r x q
  refine ⟨_, hu, ⟨regs_frame_trans h.frame (popReg_frame hu), ?_⟩, ?_, fun x hx hesp => ?_⟩
  · rw [hreg, if_neg hr.symm, esp_setSp_spPlus, h.espPlus_next]
  · rw [hreg, if_pos rfl, State.reg_setSp_of_ne t _ hr]
  · rw [hreg, if_neg hx, State.reg_setSp_of_ne t _ hesp]

end

/-! ## Several registers -/

/-- Pops into several registers are a pop into the first and then the rest. -/
theorem popRegs_cons (sz : OpSize) (r : Reg) (rs : List Reg) (s : State) :
    popRegs sz (r :: rs) s = (popReg sz r s >>= popRegs sz rs) := by
  simp only [popRegs, popReg]
  cases pop sz s <;> rfl

section
variable {sz : OpSize} {s t : State} {rs : List Reg} {k : Nat} {q : Nat → Qword}

/-- Pops into distinct registers other than ESP: register number `j` of the list gets item `k + j`. -/
theorem popRegs_of_reads (h : PoppedTo sz s k t) (hd : rs.Nodup) (hesp : .esp ∉ rs)
    (hq : ∀ j, j < rs.length →
      memRead .integer .ss (s.spPlus (opBytes sz * (k + j))) (opBytes sz) s = .ok (q (k + j))) :
    ∃ u, popRegs sz rs t = .ok u ∧ PoppedTo sz s (k + rs.length) u ∧
      (∀ x, x ∉ rs → x ≠ .esp → u.reg x = t.reg x) ∧
      ∀ j r, rs[j]? = some r → u.reg r = popValue sz (t.reg r) (q (k + j)) := by
  induction rs generalizing t k with
  | nil => exact ⟨t, rfl, h, fun _ _ _ => rfl, by simp⟩
  | cons r rs ih =>
    obtain ⟨hr, hd⟩ := List.nodup_cons.1 hd
    obtain ⟨hne, hesp⟩ : r ≠ .esp ∧ .esp ∉ rs := by simpa [eq_comm] using hesp
    obtain ⟨v, hv, hpopped, hvalue, hothers⟩ := h.popReg hne (hq 0 (by simp))
    obtain ⟨u, hu, hpopped, hkept, hvalues⟩ := ih hpopped hd hesp fun j hj => by
      have := hq (j + 1) (by simpa using hj)
      rwa [← Nat.add_assoc, Nat.add_right_comm] at this
    refine ⟨u, ?_, ?_, fun x hx hxesp => ?_, fun j x hx => ?_⟩
    · rw [popRegs_cons, hv]
      exact hu
    · rwa [List.length_cons, ← Nat.add_assoc, Nat.add_right_comm]
    · obtain ⟨hxr, hxrs⟩ : x ≠ r ∧ x ∉ rs := by simpa using hx
      rw [hkept x hxrs hxesp, hothers x hxr hxesp]
    · cases j with
      | zero =>
        cases hx
        rw [hkept r hr hne]
        exact hvalue
      | succ j =>
        have hmem : x ∈ rs := List.mem_of_getElem? hx
        rw [hvalues j x hx, hothers x (fun e => hr (e ▸ hmem)) (fun e => hesp (e ▸ hmem)), Nat.add_right_comm, Nat.add_assoc]

/-- Pops into several registers raise what the first read that raises raises. -/
theorem popRegs_of_raise (h : PoppedTo sz s k t) (hesp : .esp ∉ rs) {j : Nat} {e : Exn} (hj : j < rs.length)
    (hq : ∀ l, l < j → memRead .integer .ss (s.spPlus (opBytes sz * (k + l))) (opBytes sz) s = .ok (q (k + l)))
    (he : memRead .integer .ss (s.spPlus (opBytes sz * (k + j))) (opBytes sz) s = .error (.raise e)) :
    popRegs sz rs t = .error (.raise e) := by
  induction rs generalizing t k j with
  | nil => cases hj
  | cons r rs ih =>
    obtain ⟨hne, hesp⟩ : r ≠ .esp ∧ .esp ∉ rs := by simpa [eq_comm] using hesp
    rw [popRegs_cons]
    cases j with
    | zero => exact Res.bind_error.2 (.inl (bind_pop_raise ((h.read _).trans he)))
    | succ j =>
      obtain ⟨v, hv, hpopped, -, -⟩ := h.popReg hne (hq 0 (by omega))
      refine Res.bind_error.2 (.inr ⟨v, hv, ih hpopped hesp (by simpa using hj) (fun l hl => ?_) ?_⟩)
      · have := hq (l + 1) (by omega)
        rwa [← Nat.add_assoc, Nat.add_right_comm] at this
      · rwa [← Nat.add_assoc, Nat.add_right_comm] at he

end

/-! ## POPA and POPAD -/

section
variable {sz : OpSize} {s : State} {q : Nat → Qword}

/-- The three items before the slot of the stack pointer. -/
theorem popAll_first (hq : ∀ j, j < 3 → memRead .integer .ss (s.spPlus (opBytes sz * j)) (opBytes sz) s = .ok (q j)) :
    ∃ u, popRegs sz [.edi, .esi, .ebp] s = .ok u ∧ PoppedTo sz s 3 u ∧
      (∀ x, x ∉ [.edi, .esi, .ebp] → x ≠ .esp → u.reg x = s.reg x) ∧
      ∀ j r, [Reg.edi, .esi, .ebp][j]? = some r → u.reg r = popValue sz (s.reg r) (q j) := by
  have := popRegs_of_reads (q := q) (PoppedTo.refl sz s) (rs := [.edi, .esi, .ebp]) (by decide) (by decide)
    fun j hj => by simpa using hq j hj
  simpa using this

/-- The items after the slot of the stack pointer are those of number 4 to 7. -/
theorem popAll_of_reads
    (hq : ∀ k, k < 8 → k ≠ 3 → memRead .integer .ss (s.spPlus (opBytes sz * k)) (opBytes sz) s = .ok (q k)) :
    ∃ t, popAll sz s = .ok t ∧ t.reg .esp = espPlus s (opBytes sz * 8) ∧
      let item := fun (r : Reg) (k : Nat) => t.reg r = popValue sz (s.reg r) (q k)
      item .edi 0 ∧ item .esi 1 ∧ item .ebp 2 ∧ item .ebx 4 ∧ item .edx 5 ∧ item .ecx 6 ∧ item .eax 7 := by
  obtain ⟨u, hu, hpopped, hkept, hitems⟩ := popAll_first (sz := sz) fun j hj => hq j (by omega) (by omega)
  obtain ⟨t, ht, hpopped', hkept', hitems'⟩ := popRegs_of_reads (q := q) hpopped.skip
    (rs := [.ebx, .edx, .ecx, .eax]) (by decide) (by decide) fun j hj => hq _ (by simp at hj; omega) (by omega)
  have early : ∀ r k, [Reg.edi, .esi, .ebp][k]? = some r → r ∉ [Reg.ebx, .edx, .ecx, .eax] → r ≠ .esp →
      t.reg r = popValue sz (s.reg r) (q k) := fun r k hr hlate hne => by
    rw [hkept' r hlate hne, State.reg_setSp_of_ne u _ hne, hitems k r hr]
  have late : ∀ r k, [Reg.ebx, .edx, .ecx, .eax][k]? = some r → r ∉ [Reg.edi, .esi, .ebp] → r ≠ .esp →
      t.reg r = popValue sz (s.reg r) (q (4 + k)) := fun r k hr hearly hne => by
    rw [hitems' k r hr, State.reg_setSp_of_ne u _ hne, hkept r hearly hne]
  refine ⟨t, ?_, hpopped'.esp, early .edi 0 rfl (by decide) (by decide), early .esi 1 rfl (by decide) (by decide),
    early .ebp 2 rfl (by decide) (by decide), late .ebx 0 rfl (by decide) (by decide),
    late .edx 1 rfl (by decide) (by decide), late .ecx 2 rfl (by decide) (by decide),
    late .eax 3 rfl (by decide) (by decide)⟩
  rw [popAll, hu]
  exact ht

/-- The first read that raises is the one reported. -/
theorem popAll_of_raise {k : Nat} {e : Exn} (hk : k < 8) (hk3 : k ≠ 3)
    (hq : ∀ j, j < k → j ≠ 3 → memRead .integer .ss (s.spPlus (opBytes sz * j)) (opBytes sz) s = .ok (q j))
    (he : memRead .integer .ss (s.spPlus (opBytes sz * k)) (opBytes sz) s = .error (.raise e)) :
    popAll sz s = .error (.raise e) := by
  refine Res.bind_error.2 ?_
  rcases Nat.lt_or_gt_of_ne hk3 with hlow | hhigh
  · refine .inl (popRegs_of_raise (q := q) (PoppedTo.refl sz s) (by decide) (j := k) hlow (fun l hl => ?_) ?_)
    · rw [Nat.zero_add]
      exact hq l hl (by omega)
    · rwa [Nat.zero_add]
  · obtain ⟨u, hu, hpopped, -, -⟩ := popAll_first (sz := sz) fun j hj => hq j (by omega) (by omega)
    obtain ⟨j, rfl⟩ : ∃ j, k = 4 + j := ⟨k - 4, by omega⟩
    refine .inr ⟨u, hu, popRegs_of_raise (q := q) hpopped.skip (by decide) (j := j) (by simp; omega) (fun l hl => ?_) he⟩
    exact hq _ (by omega) (by omega)

end

/-- POPA and POPAD change registers alone, so the rest is kept. -/
theorem restKept_popAll {sz : OpSize} {i : Instr} {s t : State} (h : popAll sz s = .ok t) :
    RestKept i s (s.retire i false t) ∧ (s.retire i false t).mem = s.mem := by
  have hframe := popAll_frame h
  have hmem : t.mem = s.mem := by rw [hframe]
  exact ⟨restKept_retire (by rwa [hmem]), hmem⟩

/-- Settles O48: three pops, a skipped slot, four pops. -/
theorem popAllNetEffect : Obligations.PopAllNetEffect := by
  intro s q
  refine ⟨⟨rfl, rfl⟩, fun hq => ?_, fun hq => ?_, fun k e hk hk3 hq he => ?_, fun k e hk hk3 hq he => ?_⟩
  · obtain ⟨t, ht, hesp, hitems⟩ := popAll_of_reads (sz := .w32) hq
    obtain ⟨hrest, hmem⟩ := restKept_popAll (i := .popad) ht
    exact ⟨_, settle_ok ht, hrest, hmem, hesp, hitems⟩
  · obtain ⟨t, ht, hesp, hitems⟩ := popAll_of_reads (sz := .w16) hq
    obtain ⟨hrest, hmem⟩ := restKept_popAll (i := .popa) ht
    exact ⟨_, settle_ok ht, hrest, hmem, hesp, hitems⟩
  · exact settle_raise (popAll_of_raise (sz := .w32) hk hk3 hq he)
  · exact settle_raise (popAll_of_raise (sz := .w16) hk hk3 hq he)

end Sys2Proof.Machine
end

section
/-! PUSHA and PUSHAD (49_push_pxor.md R330 to R332), and POP after PUSH, in real-address mode. -/

namespace Sys2Proof.Machine

/-! ## The stack after some items have been pushed -/

/-- `t` is `s` but for ESP and memory, and its stack pointer is `k` items lower. -/
structure PushedTo (sz : OpSize) (s : State) (k : Nat) (t : State) : Prop where
  frame : t = { s with regs := t.regs, mem := t.mem }
  esp : t.reg .esp = espMinus s (opBytes sz * k)
  others : ∀ x, x ≠ .esp → t.reg x = s.reg x

/-- In real-address mode an access depends on the segment registers, the admitted addresses and the text alone. -/
theorem access_real_congr {who : Requester} {write : Bool} {S : SReg} {off : Dword} {n : Nat} {s t : State}
    (hm : s.mode = .real) (h : t = { s with regs := t.regs, mem := t.mem }) :
    access who write S off n t = access who write S off n s := by
  have hmem : ∀ m, translateBytes write (s.setMem m) (s.linear S off) n = translateBytes write s (s.linear S off) n :=
    fun m => by rw [translateBytes_real hm, translateBytes_real (s := s.setMem m) hm]
  have hset : ∀ m, access who write S off n (s.setMem m) = access who write S off n s := fun m => by
    unfold access
    exact congrArg (fun x => segmentCheck who write S off n s >>= fun _ => x >>= fun ps =>
      alignCheck (s.linear S off) n s >>= fun _ => placeCheck write s ps >>= fun _ => .ok ps) (hmem m)
  rw [← hset t.mem]
  generalize t.regs = g at h
  generalize t.mem = m at h ⊢
  subst h
  exact access_congr rfl rfl rfl rfl rfl rfl rfl

section
variable {sz : OpSize} {s t : State} {k : Nat} {v : Dword} {ps : List Nat}

theorem PushedTo.refl (sz : OpSize) (s : State) : PushedTo sz s 0 s :=
  ⟨rfl, (espMinus_zero s).symm, fun _ _ => rfl⟩

theorem PushedTo.stack32 (h : PushedTo sz s k t) : t.stack32 = s.stack32 := by
  rw [h.frame]
  rfl

theorem PushedTo.mode (h : PushedTo sz s k t) : t.mode = s.mode := by
  rw [h.frame]
  rfl

theorem PushedTo.sp (h : PushedTo sz s k t) : t.sp = s.spMinus (opBytes sz * k) := by
  rw [sp_eq_spMinus_zero, spMinus_of_esp 0 h.stack32 h.esp, Nat.add_zero]

/-- The next item is stored at `k + 1` items below the start. -/
theorem PushedTo.access (h : PushedTo sz s k t) (hm : s.mode = .real) :
    access .integer true .ss (t.spMinus (opBytes sz)) (opBytes sz) t =
      access .integer true .ss (s.spMinus (opBytes sz * (k + 1))) (opBytes sz) s := by
  rw [spMinus_of_esp _ h.stack32 h.esp, access_real_congr hm h.frame]
  rfl

theorem PushedTo.canPush (h : PushedTo sz s k t) (hm : s.mode = .real) (hsp : s.spMinus (opBytes sz * k) ≠ 1)
    (ha : Machine.access .integer true .ss (s.spMinus (opBytes sz * (k + 1))) (opBytes sz) s = .ok ps) :
    CanPush sz t ps :=
  ⟨fun hc => hsp (h.sp ▸ hc.2), (h.access hm).trans ha⟩

/-- One push more, in real-address mode. -/
theorem PushedTo.push (h : PushedTo sz s k t) (hp : CanPush sz t ps) (v : Dword) :
    ∃ u, Machine.push sz v t = .ok u ∧ PushedTo sz s (k + 1) u ∧
      u.mem = t.mem.store ps (leBytes (opBytes sz) (v.setWidth 64)) := by
  refine ⟨_, push_of_canPush hp v, ⟨?_, ?_, fun x hx => ?_⟩, by simp⟩
  · have hframe := h.frame
    generalize hg : t.regs = g at hframe
    generalize hg' : t.mem = m at hframe
    subst hframe
    apply State.ext <;> simp
  · exact (esp_setSp_spMinus (t.setMem _) _).trans (espMinus_of_esp (opBytes sz) h.stack32 h.esp)
  · exact (State.reg_setSp_of_ne (t.setMem _) _ hx).trans (h.others x hx)

end

/-! ## Several items -/

section
variable {sz : OpSize} {s t : State} {vs : List Dword} {k : Nat} {ps : Nat → List Nat}

/-- Pushes in real-address mode: item `j` of the list is stored at `ps (k + j)`, `k + j + 1` items below the start. -/
theorem pushList_of_accesses (h : PushedTo sz s k t) (hm : s.mode = .real)
    (hp : ∀ j, j < vs.length → s.spMinus (opBytes sz * (k + j)) ≠ 1 ∧
      access .integer true .ss (s.spMinus (opBytes sz * (k + j + 1))) (opBytes sz) s = .ok (ps (k + j))) :
    ∃ u, pushList sz vs t = .ok u ∧ PushedTo sz s (k + vs.length) u ∧
      (∀ a, (∀ j, j < vs.length → a ∉ ps (k + j)) → u.mem.read a = t.mem.read a) ∧
      ((∀ j, j < vs.length → (ps (k + j)).Nodup) →
        (∀ j l, j < l → l < vs.length → (ps (k + j)).Disjoint (ps (k + l))) →
        ∀ j v, vs[j]? = some v → (ps (k + j)).map u.mem.read = leBytes (opBytes sz) (v.setWidth 64)) := by
  induction vs generalizing t k with
  | nil => exact ⟨t, rfl, h, fun _ _ => rfl, by simp⟩
  | cons w vs ih =>
    have hnext : ∀ j, k + 1 + j = k + (j + 1) := fun j => by omega
    obtain ⟨hsp, ha⟩ := hp 0 (by simp)
    have hcan := h.canPush hm hsp ha
    obtain ⟨t', ht', hpushed, hmem⟩ := h.push hcan w
    obtain ⟨u, hu, hpushed', hkept, hstored⟩ := ih hpushed fun j hj => by
      have := hp (j + 1) (by simpa using hj)
      rwa [← hnext] at this
    refine ⟨u, ?_, ?_, fun a ha' => ?_, fun hd hdis j v hv => ?_⟩
    · rw [pushList, ht']
      exact hu
    · rwa [List.length_cons, ← Nat.add_assoc, Nat.add_right_comm]
    · rw [hkept a fun j hj => hnext j ▸ ha' (j + 1) (by simpa using hj), hmem]
      exact Memory.read_store_of_not_mem _ _ _ _ (ha' 0 (by simp))
    · cases j with
      | zero =>
        cases hv
        have hfirst := Memory.map_read_store (ps (k + 0)) (leBytes (opBytes sz) (w.setWidth 64)) t.mem (hd 0 (by simp))
          (by rw [access_length ha, leBytes_length])
        rw [← hfirst, ← hmem]
        refine List.map_congr_left fun a ha' => hkept a fun j hj hj' => ?_
        rw [hnext] at hj'
        exact hdis 0 (j + 1) (by omega) (by simpa using hj) ha' hj'
      | succ j =>
        rw [← hnext]
        refine hstored (fun j hj => hnext j ▸ hd (j + 1) (by simpa using hj)) (fun j l hjl hl => ?_) j v hv
        rw [hnext, hnext]
        exact hdis (j + 1) (l + 1) (by omega) (by simpa using hl)

/-- Pushes end as the push after the first `k` ends, where that does not succeed. -/
theorem pushList_of_take {x : Stop} {v : Dword} (ht : pushList sz (vs.take k) s = .ok t) (hv : vs[k]? = some v)
    (hx : push sz v t = .error x) : pushList sz vs s = .error x := by
  obtain ⟨hk, rfl⟩ := List.getElem?_eq_some_iff.1 hv
  rw [← List.take_append_drop k vs, pushList_append, ht, List.drop_eq_getElem_cons hk]
  exact Res.bind_error.2 (.inr ⟨t, rfl, Res.bind_error.2 (.inl hx)⟩)

end

/-! ## PUSHA and PUSHAD -/

section
variable {sz : OpSize} {i : Instr} {s t : State} {k : Nat}

/-- PUSHA and PUSHAD push eight items. -/
theorem pushAll_items (sz : OpSize) (s : State) (hk : k < 8) : ∃ v, (pushAllOrder.map (s.regSz sz))[k]? = some v :=
  ⟨_, List.getElem?_eq_getElem (by simpa [pushAllOrder] using hk)⟩

/-- Item number `r` is the register `r`. -/
theorem pushAllOrder_toBits (r : Reg) : pushAllOrder[r.toBits.toNat]? = some r := by
  cases r <;> rfl

theorem leBytes_regSz (sz : OpSize) (s : State) (r : Reg) :
    leBytes (opBytes sz) ((s.regSz sz r).setWidth 64) = leBytes (opBytes sz) ((s.reg r).setWidth 64) := by
  cases sz with
  | w32 => rfl
  | w16 =>
    refine leBytes_congr fun j hj => ?_
    have hj : j < 16 := hj
    simp [State.regSz, State.reg16, hj, show j < 32 by omega]

/-- Where the start test passes, what stops one of the pushes stops the instruction's rule. -/
theorem pushAll_of_take {x : Stop} (hstart : s.mode = .prot ∨ s.sp.toNat ∉ [1, 3, 5, 7, 9, 11, 13, 15]) (hk : k < 8)
    (ht : pushList sz ((pushAllOrder.map (s.regSz sz)).take k) s = .ok t)
    (hx : ∀ v, push sz v t = .error x) : pushAll sz s = .error x := by
  obtain ⟨v, hv⟩ := pushAll_items sz s hk
  rw [pushAll_of_start_ok hstart]
  exact pushList_of_take ht hv (hx v)

/-- The first `k` pushes, where they are admitted. -/
theorem pushAll_first (hm : s.mode = .real) (hk : k < 8)
    (hp : ∀ j, j < k → s.spMinus (opBytes sz * j) ≠ 1 ∧
      ∃ ps, access .integer true .ss (s.spMinus (opBytes sz * (j + 1))) (opBytes sz) s = .ok ps) :
    ∃ t, pushList sz ((pushAllOrder.map (s.regSz sz)).take k) s = .ok t ∧ PushedTo sz s k t := by
  have hlen : ((pushAllOrder.map (s.regSz sz)).take k).length = k := by
    rw [List.length_take]
    exact Nat.min_eq_left (Nat.le_of_lt hk)
  choose hsp ps hps using hp
  obtain ⟨t, ht, hpushed, -⟩ := pushList_of_accesses (vs := (pushAllOrder.map (s.regSz sz)).take k)
    (ps := fun j => if hj : j < k then ps j hj else []) (PushedTo.refl sz s) hm fun j hj => by
      rw [hlen] at hj
      simp only [Nat.zero_add, hj, dif_pos]
      exact ⟨hsp j hj, hps j hj⟩
  rw [hlen, Nat.zero_add] at hpushed
  exact ⟨t, ht, hpushed⟩

/-- In real-address mode the push after `k` admitted ones shuts the processor down, or raises. -/
theorem pushAll_stops_of_form (form : ∀ s, exec i s = settle i false s (pushAll sz s)) (s : State) (k : Nat)
    (hm : s.mode = .real) (hstart : s.sp.toNat ∉ [1, 3, 5, 7, 9, 11, 13, 15]) (hk : k < 8)
    (hp : ∀ j, j < k → s.spMinus (opBytes sz * j) ≠ 1 ∧
      ∃ ps, access .integer true .ss (s.spMinus (opBytes sz * (j + 1))) (opBytes sz) s = .ok ps) :
    (s.spMinus (opBytes sz * k) = 1 → ShutsDown i s) ∧
    (s.spMinus (opBytes sz * k) ≠ 1 → ∀ e,
      access .integer true .ss (s.spMinus (opBytes sz * (k + 1))) (opBytes sz) s = .error (.raise e) →
      Raises i s e) := by
  obtain ⟨t, ht, hpushed⟩ := pushAll_first hm hk hp
  refine ⟨fun hsp => (form s).trans (settle_shutdown (pushAll_of_take (.inr hstart) hk ht fun v => ?_)),
    fun hsp e he => (form s).trans (settle_raise (pushAll_of_take (.inr hstart) hk ht fun v => ?_))⟩
  · exact push_shutdown.2 ⟨hpushed.mode.trans hm, hpushed.sp.trans hsp⟩
  · exact push_raise.2 ⟨fun hc => hsp (hpushed.sp ▸ hc.2), (hpushed.access hm).trans he⟩

/-- In every mode the instruction raises what one of its pushes raises. -/
theorem pushAll_raises_of_form (form : ∀ s, exec i s = settle i false s (pushAll sz s)) (s t : State) (k : Nat) (e : Exn)
    (hstart : s.mode = .prot ∨ s.sp.toNat ∉ [1, 3, 5, 7, 9, 11, 13, 15]) (hk : k < 8)
    (ht : pushList sz ((pushAllOrder.map (s.regSz sz)).take k) s = .ok t) (h : PushRaises sz t e) : Raises i s e :=
  (form s).trans (settle_raise (pushAll_of_take hstart hk ht fun _ => push_raise.2 h))

/-- The net effect in real-address mode. -/
theorem pushAll_netEffect_of_form (form : ∀ s, exec i s = settle i false s (pushAll sz s)) (s : State)
    (ps : Nat → List Nat) (hm : s.mode = .real) (hstart : s.sp.toNat ∉ [1, 3, 5, 7, 9, 11, 13, 15])
    (hsp : ∀ k, k < 8 → s.spMinus (opBytes sz * k) ≠ 1)
    (ha : ∀ k, k < 8 → access .integer true .ss (s.spMinus (opBytes sz * (k + 1))) (opBytes sz) s = .ok (ps k))
    (hd : ((List.range 8).flatMap ps).Nodup) :
    ∃ t, exec i s = .next t ∧ RestKept i s t ∧ t.reg .esp = espMinus s (opBytes sz * 8) ∧
      (∀ x, x ≠ .esp → t.reg x = s.reg x) ∧
      (∀ r : Reg, (ps r.toBits.toNat).map t.mem.read = leBytes (opBytes sz) ((s.reg r).setWidth 64)) ∧
      ∀ a, (∀ k, k < 8 → a ∉ ps k) → t.mem.read a = s.mem.read a := by
  obtain ⟨hnodup, hdisjoint⟩ := List.nodup_flatMap.1 hd
  have hpairs : ∀ j l, j < l → l < 8 → (ps j).Disjoint (ps l) := fun j l hjl hl => by
    have := List.pairwise_iff_getElem.1 hdisjoint j l (by simp; omega) (by simpa using hl) hjl
    simpa [Function.onFun] using this
  obtain ⟨t, ht, hpushed, hkept, hstored⟩ := pushList_of_accesses (vs := pushAllOrder.map (s.regSz sz)) (ps := ps)
    (PushedTo.refl sz s) hm fun j hj => by
      rw [Nat.zero_add]
      exact ⟨hsp j hj, ha j hj⟩
  simp only [Nat.zero_add] at hkept hstored
  refine ⟨_, (form s).trans (settle_ok ((pushAll_of_start_ok (.inr hstart)).trans ht)), restKept_retire hpushed.frame,
    hpushed.esp, hpushed.others, fun r => ?_, fun a => hkept a⟩
  have hitem : (pushAllOrder.map (s.regSz sz))[r.toBits.toNat]? = some (s.regSz sz r) := by
    rw [List.getElem?_map, pushAllOrder_toBits]
    rfl
  rw [← leBytes_regSz]
  exact hstored (fun j hj => hnodup j (List.mem_range.2 hj)) hpairs _ _ hitem

end

/-- Settles O57: a list of pushes whose stores do not overlap, and the push at which it stops. -/
theorem pushAllNetEffect : Obligations.PushAllNetEffect :=
  ⟨⟨pushAll_netEffect_of_form fun _ => rfl, pushAll_netEffect_of_form fun _ => rfl⟩,
    ⟨pushAll_stops_of_form fun _ => rfl, pushAll_stops_of_form fun _ => rfl⟩, pushAll_raises_of_form fun _ => rfl,
    pushAll_raises_of_form fun _ => rfl⟩

/-! ## POP after PUSH -/

section
variable {sz : OpSize} {i : Instr} {s t : State} {v : Dword}

/-- The stack pointer is back where it was. -/
theorem espPlus_of_espMinus {n : Nat} (hs : t.stack32 = s.stack32) (h : t.reg .esp = espMinus s n) :
    espPlus t n = s.reg .esp := by
  cases hst : s.stack32
  · simp only [espPlus, espMinus, State.reg16, hs, h, hst, Bool.false_eq_true, if_false, low_append, high_append,
      sub_add_cancel, append_halves]
  · simp only [espPlus, espMinus, hs, h, hst, if_true, sub_add_cancel]

/-- After one push in real-address mode the item pushed is read at the top of the stack. -/
theorem read_after_push (form : exec i s = settle i false s (push sz v s)) (hm : s.mode = .real)
    (hdown : t.shutdown = false) (h : exec i s = .next t) :
    t.stack32 = s.stack32 ∧ t.reg .esp = espMinus s (opBytes sz) ∧ (∀ x, x ≠ .esp → t.reg x = s.reg x) ∧
      ∃ q, memRead .integer .ss t.sp (opBytes sz) t = .ok q ∧ q.toNat = v.toNat % 2 ^ (8 * opBytes sz) := by
  rcases settle_next.1 (form.symm.trans h) with ⟨u, hu, rfl⟩ | ⟨-, rfl⟩
  · obtain ⟨hsp, w, hw, rfl⟩ := push_ok.1 hu
    obtain ⟨ps, ha, rfl⟩ := memWrite_ok.1 hw
    obtain ⟨t, ht, hpushed, -⟩ := (PushedTo.refl sz s).push ⟨hsp, ha⟩ v
    cases hu.symm.trans ht
    have hdepth : opBytes sz * (0 + 1) = opBytes sz := by rw [Nat.zero_add, Nat.mul_one]
    have hsp := hpushed.sp
    have hesp := hpushed.esp
    rw [hdepth] at hsp hesp
    obtain ⟨-, q, hq, hvalue⟩ := storeIsLittleEndianAndReadBack .ss _ (opBytes sz) _ s _ hm (by cases sz <;> decide) hw
    rw [BitVec.toNat_setWidth, Nat.mod_eq_of_lt (Nat.lt_of_lt_of_le v.isLt (by decide))] at hvalue
    refine ⟨hpushed.stack32, hesp, hpushed.others, q, ?_, hvalue⟩
    refine (congrArg (memRead .integer .ss · (opBytes sz) _) hsp).trans (Eq.trans ?_ hq)
    apply memRead_congr <;> simp
  · cases hdown

/-- POP after PUSH of the same size: the popped register gets the item, the others are back where they were. -/
theorem pop_after_push {j : Instr} {x : Reg} (form : exec i s = settle i false s (push sz v s))
    (form' : exec j t = settle j false t (popReg sz x t)) (hm : s.mode = .real) (hdown : t.shutdown = false)
    (h : exec i s = .next t) :
    ∃ u q, exec j t = .next u ∧ q.toNat = v.toNat % 2 ^ (8 * opBytes sz) ∧ u.reg x = popValue sz (s.reg x) q ∧
      ∀ y, y ≠ x → u.reg y = s.reg y := by
  obtain ⟨h32, hesp, hothers, q, hq, hvalue⟩ := read_after_push form hm hdown h
  have hback : ∀ y, (if y = .esp then espPlus t (opBytes sz) else t.reg y) = s.reg y := fun y => by
    split
    · subst y
      exact espPlus_of_espMinus h32 hesp
    · exact hothers y ‹_›
  obtain ⟨u, hu, -, -, hx, hrest⟩ := exec_popReg form' hq
  rw [hback] at hx
  exact ⟨u, q, hu, hvalue, hx, fun y hy => (hrest y hy).trans (hback y)⟩

end

/-- Settles O60: the item is read back, and the stack pointer has gone down and up by the same amount. -/
theorem popUndoesPush : Obligations.PopUndoesPush := by
  intro r x s t hm hs hdown
  refine ⟨fun h => ?_, fun h => ?_⟩
  · obtain ⟨u, q, hu, hvalue, hx, hrest⟩ := pop_after_push (j := .popR32 x) (sz := .w32) rfl rfl hm hdown h
    have hitem : q.setWidth 32 = s.reg r := BitVec.eq_of_toNat_eq (by
      rw [BitVec.toNat_setWidth, hvalue]
      exact (Nat.mod_mod _ _).trans (Nat.mod_eq_of_lt (s.reg r).isLt))
    exact ⟨u, hu, hx.trans hitem, hrest⟩
  · obtain ⟨u, q, hu, hvalue, hx, hrest⟩ := pop_after_push (j := .popR16 x) (sz := .w16) rfl rfl hm hdown h
    have hitem : q.setWidth 16 = s.reg16 r := BitVec.eq_of_toNat_eq (by
      rw [BitVec.toNat_setWidth, hvalue]
      refine (Nat.mod_mod _ _).trans ?_
      rw [State.regSz, BitVec.toNat_setWidth]
      have := (s.reg16 r).isLt
      simp only [opBytes]
      omega)
    exact ⟨u, hu, by rw [hx, popValue, hitem], hrest⟩

end Sys2Proof.Machine
end
